-- ==== Sys2Proof/Word.lean ====
section
/-! DEFINITION. The word types of the divider engine: device bytes, 32-bit command words and the
64-bit host registers (rules R20, R32, R46, R70). -/

namespace Sys2Proof

/-- One byte register of the device register space (R46). -/
abbrev Byte := BitVec 8

/-- One 32-bit command word (R70). -/
abbrev CmdWord := BitVec 32

/-- One 64-bit register of the host register space, moved whole by a host access (R32). An engine register is
one of them and holds its W bits in the low ones (R7, R10, R20). -/
abbrev Word := BitVec 64

end Sys2Proof
end

