-- ==== Sys2Proof/Config.lean ====
section
/-! DEFINITION. What is fixed for one machine and what the spec leaves free: the constants of R5, the
parameters of R7, and the two free values (the Register Port's replies, R47 and R50, and how often the host
moves while a command is in progress, R224 H2). -/

namespace Sys2Proof

/-! ## Constants of R5, in Hz×100 unless the rule calls them pure -/

namespace Config

/-- FREQ_MULT, pure: a frequency is an integer number of Hz scaled by it (R5, R6). -/
@[simp] def freqMult : Int := 100
/-- VCO_MIN (R5). -/
@[simp] def vcoMin : Int := 60000000000
/-- VCO_MAX (R5). -/
@[simp] def vcoMax : Int := 90000000000
/-- PLL_A_MIN, pure (R5). -/
@[simp] def pllAMin : Int := 15
/-- PLL_A_MAX, pure (R5). -/
@[simp] def pllAMax : Int := 90
/-- MS_A_MIN, pure (R5). -/
@[simp] def msAMin : Int := 6
/-- MS_A_MAX, pure (R5). -/
@[simp] def msAMax : Int := 1800
/-- MS67_A_MIN, pure (R5; the value of 90_conflicts.md C2). -/
@[simp] def ms67AMin : Int := 6
/-- MS67_A_MAX, pure (R5). -/
@[simp] def ms67AMax : Int := 254
/-- MS_MIN_FREQ (R5). -/
@[simp] def msMinFreq : Int := 50000000
/-- MS_MAX_FREQ (R5). -/
@[simp] def msMaxFreq : Int := 22500000000
/-- MS67_MAX_FREQ (R5). -/
@[simp] def ms67MaxFreq : Int := 15000000000
/-- DIVBY4_FREQ (R5). -/
@[simp] def divBy4Freq : Int := 15000000000
/-- RFRAC_DENOM, pure (R5). -/
@[simp] def rfracDenom : Int := 1000000
/-- SHARE_MAX, used only by host programs (R5). -/
@[simp] def shareMax : Int := 10000000000
/-- PLL_NOMINAL, used only by host programs (R5, R228). -/
@[simp] def pllNominal : Int := 80000000000
/-- P1_MAX (R5). -/
@[simp] def p1Max : Int := 2 ^ 18 - 1
/-- P2_MAX (R5). -/
@[simp] def p2Max : Int := 2 ^ 20 - 1
/-- P3_MAX (R5). -/
@[simp] def p3Max : Int := 2 ^ 20 - 1

end Config

/-! ## Parameters of R7 -/

/-- CORR_MODE: EXACT or FIXED31 (R7, R91). -/
inductive CorrMode where
  | exactRational
  | fixed31
  deriving DecidableEq, Repr, Inhabited

/-- MS67_EVEN: which way an odd quotient is made even (R7, R121). -/
inductive EvenMode where
  | up
  | down
  deriving DecidableEq, Repr, Inhabited

/-- The parameters of R7: W, CORR_MODE, CLKOUT_MIN, CLKOUT67_MIN, MS67_MARGIN, MS67_EVEN and
DEV_ADDR_BITS. -/
structure Params where
  width : Nat
  corrMode : CorrMode
  clkoutMin : Nat
  clkout67Min : Nat
  ms67Margin : Nat
  ms67Even : EvenMode
  devAddrBits : Nat
  deriving DecidableEq, Repr

/-- The defaults of R7. -/
def Params.default : Params where
  width := 64
  corrMode := .exactRational
  clkoutMin := 400000
  clkout67Min := 1845400
  ms67Margin := 10000000000
  ms67Even := .up
  devAddrBits := 8

/-- The number of byte registers of the device register space (R46). -/
def Params.deviceSize (c : Params) : Nat := 2 ^ c.devAddrBits

/-- The parameters a machine of this spec can have (assumption 2): a register fits the 64-bit host register it
is read and written by (R20, R32), and the device register space has the addresses the engine forms, up to
187 (R46, R49). -/
abbrev Params.Sound (c : Params) : Prop := c.width ≤ 64 ∧ 8 ≤ c.devAddrBits

/-! ## Free values -/

/-- What the Register Port does with the transaction that is outstanding (R47, R224 H10):
it returns (with a byte, which a write ignores), it fails with a transport error, or it has not
returned yet. -/
inductive Reply where
  | returns (b : Byte)
  | fails
  | silent
  deriving DecidableEq, Repr, Inhabited

/-- The Register Port's `n`-th reply that the state does not script: a free draw (R47, R50). -/
opaque Config.reply : Nat → Reply

/-- How many turns the host takes before the engine's `n`-th turn on a command, where the state does not
script it: a free draw. It is a number, so the engine's turn always comes (R224 H2, R225). -/
opaque Config.hostTurns : Nat → Nat

end Sys2Proof
end

