-- ==== Sys2Proof/Syntax.lean ====
section
/-! DEFINITION. The commands of the divider engine as syntax: one constructor of `Instr` for each row of
the opcode map (R77), the control-field names of R156, and the pseudo-instructions of R83. -/

namespace Sys2Proof

/-- The two PLLs; PACK_PLL selects one with PS (R14, R72). -/
inductive Pll where
  | a
  | b
  deriving DecidableEq, Repr

/-- A channel number CLK0 … CLK7 (R14, R72). -/
abbrev Channel := Fin 8

/-- The control fields FIELD_WR can write, in the order of their ids 0 to 17 (R156). -/
inductive Field where
  | oeb
  | pdn
  | int
  | pllsel
  | inv
  | src
  | drv
  | disState
  | pllaSrc
  | pllbSrc
  | clkinDiv
  | phase
  | fanoutClkin
  | fanoutXtal
  | fanoutMs
  | xtalCl
  | rdiv
  | divby4
  deriving DecidableEq, Repr

/-- One command of the engine (R77). -/
inductive Instr where
  | nop
  | pllCalc
  | pllCalcVcxo
  | msCalc
  | ms67Calc
  | rdivSel
  | rdiv67Sel
  | packPll (p : Pll)
  | packMs (ch : Channel)
  | packMs67 (ch : Channel)
  | msctlWr (ch : Channel)
  | fieldWr (f : Field) (ch : Channel) (imm : Byte)
  | pllRst (resetA resetB : Bool)
  | packVcxo
  | statusRd
  deriving DecidableEq, Repr

/-- The pseudo-instructions of R83: assembler text only; the engine sees the expansion. -/
inductive Pseudo where
  | oeOn (ch : Channel)
  | oeOff (ch : Channel)
  | setPll (p : Pll)
  | setMs (ch : Channel)
  | setMs67 (ch : Channel)
  | pllSel (ch : Channel) (p : Pll)
  deriving DecidableEq, Repr

end Sys2Proof
end

