-- ==== Sys2Proof/Machine/FieldTable.lean ====
section
/-! DEFINITION. The control-field table of R156: where each FIELD_WR field lies in the device register
map, how wide it is, and which channels it takes. -/

namespace Sys2Proof.Machine

/-- A row of R156 for one channel: register address, lowest bit, width, and whether the channel is
legal for the field. -/
structure FieldEntry where
  addr : Nat
  lsb : Nat
  width : Nat
  legal : Bool
  deriving DecidableEq, Repr

/-- Address of channel `ch`'s "R-div/divide-by-4 byte at offset+2" (R48, R149), channels 0-5. -/
def ctlByteAddr (ch : Channel) : Nat := 42 + 8 * ch.val + 2

/-- The control-field table (R156). -/
def fieldTable (f : Field) (ch : Channel) : FieldEntry :=
  match f with
  | .oeb => ⟨3, ch.val, 1, true⟩
  | .pdn => ⟨16 + ch.val, 7, 1, true⟩
  | .int => ⟨16 + ch.val, 6, 1, true⟩
  | .pllsel => ⟨16 + ch.val, 5, 1, true⟩
  | .inv => ⟨16 + ch.val, 4, 1, true⟩
  | .src => ⟨16 + ch.val, 2, 2, true⟩
  | .drv => ⟨16 + ch.val, 0, 2, true⟩
  | .disState => ⟨24 + ch.val / 4, 2 * (ch.val % 4), 2, true⟩
  | .pllaSrc => ⟨15, 2, 1, ch.val == 0⟩
  | .pllbSrc => ⟨15, 3, 1, ch.val == 0⟩
  | .clkinDiv => ⟨15, 6, 2, ch.val == 0⟩
  | .phase => ⟨165 + ch.val, 0, 7, decide (ch.val ≤ 5)⟩
  | .fanoutClkin => ⟨187, 7, 1, ch.val == 0⟩
  | .fanoutXtal => ⟨187, 6, 1, ch.val == 0⟩
  | .fanoutMs => ⟨187, 4, 1, ch.val == 0⟩
  | .xtalCl => ⟨183, 6, 2, ch.val == 0⟩
  | .rdiv =>
    if ch.val ≤ 5 then ⟨ctlByteAddr ch, 4, 3, true⟩
    else ⟨92, if ch.val = 6 then 0 else 4, 3, true⟩
  | .divby4 => ⟨ctlByteAddr ch, 2, 2, decide (ch.val ≤ 5)⟩

end Sys2Proof.Machine
end

