-- ==== Sys2Proof/WellFormed.lean ====
section
/-! DEFINITION. Which terms of `Instr` are commands: the legal values of the operand fields in R77 and
R156. A term that is not well formed has no legal command word (R79). -/

namespace Sys2Proof

/-- The constraint columns of R77 and R156: CH ≤ 5 for PACK_MS, CH ∈ {6, 7} for PACK_MS67, a channel and an
immediate the field admits for FIELD_WR, at least one PLL for PLL_RST. -/
def Instr.wf : Instr → Bool
  | .nop => true
  | .pllCalc => true
  | .pllCalcVcxo => true
  | .msCalc => true
  | .ms67Calc => true
  | .rdivSel => true
  | .rdiv67Sel => true
  | .packPll _ => true
  | .packMs ch => decide (ch.val ≤ 5)
  | .packMs67 ch => decide (6 ≤ ch.val)
  | .msctlWr _ => true
  | .fieldWr f ch imm =>
    (Machine.fieldTable f ch).legal && decide (imm.toNat < 2 ^ (Machine.fieldTable f ch).width)
  | .pllRst resetA resetB => resetA || resetB
  | .packVcxo => true
  | .statusRd => true

/-- `i` is a legal command (R77, R79). -/
abbrev Instr.WellFormed (i : Instr) : Prop := i.wf = true

end Sys2Proof
end

