-- ==== Sys2Proof/Decode.lean ====
section
/-! DEFINITION. The decoder of R70 to R79, total on every 32-bit word and refusing by name, the encoder
written from the same tables, the opcode map's match and mask columns (R77), and the assembler text of
R81. -/

namespace Sys2Proof

/-- The fields of the one command format (R70). -/
structure Fields where
  op : BitVec 6
  ch : BitVec 3
  ps : BitVec 2
  fld : BitVec 5
  imm : BitVec 8
  rsv : BitVec 8
  deriving DecidableEq, Repr

/-- The fields of a word, at the bit positions of R70. -/
def Fields.ofWord (w : CmdWord) : Fields where
  op := w.extractLsb' 0 6
  ch := w.extractLsb' 6 3
  ps := w.extractLsb' 9 2
  fld := w.extractLsb' 11 5
  imm := w.extractLsb' 16 8
  rsv := w.extractLsb' 24 8

/-- The word of the fields: RSV, IMM, FLD, PS, CH, OP from the top down (R70). -/
def Fields.toWord (f : Fields) : CmdWord :=
  f.rsv ++ f.imm ++ f.fld ++ f.ps ++ f.ch ++ f.op

/-- Why a word is illegal (R79). Every one of them raises ILLEGAL_CMD (R191). -/
inductive Illegal where
  /-- OP is 0x07, 0x0F or above 0x10 (R71, R79). -/
  | unassignedOp
  /-- RSV ≠ 0 (R75). -/
  | reservedBits
  /-- A field the command does not use is nonzero (R76). -/
  | unusedField
  /-- CH is no channel of the command or of the control field (R77, R156). -/
  | channel
  /-- PS is 2 or 3 for PACK_PLL, or 0 for PLL_RST (R72). -/
  | pllSelector
  /-- FLD is 18 to 31 (R73). -/
  | fieldId
  /-- IMM does not fit the width of the control field (R74). -/
  | immediate
  deriving DecidableEq, Repr

/-- Field id to field (R156); ids 18 to 31 are illegal (R73). -/
def Field.ofId (n : Nat) : Option Field :=
  match n with
  | 0 => some .oeb
  | 1 => some .pdn
  | 2 => some .int
  | 3 => some .pllsel
  | 4 => some .inv
  | 5 => some .src
  | 6 => some .drv
  | 7 => some .disState
  | 8 => some .pllaSrc
  | 9 => some .pllbSrc
  | 10 => some .clkinDiv
  | 11 => some .phase
  | 12 => some .fanoutClkin
  | 13 => some .fanoutXtal
  | 14 => some .fanoutMs
  | 15 => some .xtalCl
  | 16 => some .rdiv
  | 17 => some .divby4
  | _ => none

/-- Field to field id (R156). -/
def Field.id (f : Field) : BitVec 5 :=
  match f with
  | .oeb => 0
  | .pdn => 1
  | .int => 2
  | .pllsel => 3
  | .inv => 4
  | .src => 5
  | .drv => 6
  | .disState => 7
  | .pllaSrc => 8
  | .pllbSrc => 9
  | .clkinDiv => 10
  | .phase => 11
  | .fanoutClkin => 12
  | .fanoutXtal => 13
  | .fanoutMs => 14
  | .xtalCl => 15
  | .rdiv => 16
  | .divby4 => 17

/-- A command that uses no field (R76). -/
def Fields.decodePlain (f : Fields) (i : Instr) : Except Illegal Instr :=
  if f.ch = 0 ∧ f.ps = 0 ∧ f.fld = 0 ∧ f.imm = 0 then .ok i else .error .unusedField

/-- PACK_PLL: PS = 0 is PLLA, PS = 1 is PLLB, 2 and 3 are illegal (R72). -/
def Fields.decodePackPll (f : Fields) : Except Illegal Instr :=
  if f.ch = 0 ∧ f.fld = 0 ∧ f.imm = 0 then
    if f.ps = 0 then .ok (.packPll .a)
    else if f.ps = 1 then .ok (.packPll .b)
    else .error .pllSelector
  else .error .unusedField

/-- A command that uses CH only, with the channels its row admits (R77). -/
def Fields.decodeChannel (f : Fields) (i : Channel → Instr) : Except Illegal Instr :=
  if f.ps = 0 ∧ f.fld = 0 ∧ f.imm = 0 then
    if (i f.ch.toFin).wf then .ok (i f.ch.toFin) else .error .channel
  else .error .unusedField

/-- FIELD_WR: FLD, CH and IMM with the constraints of R156 and R74. -/
def Fields.decodeFieldWr (f : Fields) : Except Illegal Instr :=
  if f.ps = 0 then
    match Field.ofId f.fld.toNat with
    | none => .error .fieldId
    | some fld =>
      if (Machine.fieldTable fld f.ch.toFin).legal then
        if f.imm.toNat < 2 ^ (Machine.fieldTable fld f.ch.toFin).width then
          .ok (.fieldWr fld f.ch.toFin f.imm)
        else .error .immediate
      else .error .channel
  else .error .unusedField

/-- PLL_RST: PS is a mask, PS[0] for PLLA and PS[1] for PLLB; PS = 0 is illegal (R72). -/
def Fields.decodePllRst (f : Fields) : Except Illegal Instr :=
  if f.ch = 0 ∧ f.fld = 0 ∧ f.imm = 0 then
    if f.ps = 0 then .error .pllSelector
    else .ok (.pllRst (f.ps.getLsbD 0) (f.ps.getLsbD 1))
  else .error .unusedField

/-- The opcode map (R77). -/
def Fields.decode (f : Fields) : Except Illegal Instr :=
  if f.rsv = 0 then
    match f.op.toNat with
    | 0x00 => f.decodePlain .nop
    | 0x01 => f.decodePlain .pllCalc
    | 0x02 => f.decodePlain .pllCalcVcxo
    | 0x03 => f.decodePlain .msCalc
    | 0x04 => f.decodePlain .ms67Calc
    | 0x05 => f.decodePlain .rdivSel
    | 0x06 => f.decodePlain .rdiv67Sel
    | 0x08 => f.decodePackPll
    | 0x09 => f.decodeChannel .packMs
    | 0x0A => f.decodeChannel .packMs67
    | 0x0B => f.decodeChannel .msctlWr
    | 0x0C => f.decodeFieldWr
    | 0x0D => f.decodePllRst
    | 0x0E => f.decodePlain .packVcxo
    | 0x10 => f.decodePlain .statusRd
    | _ => .error .unassignedOp
  else .error .reservedBits

/-- The decoder: every 32-bit word is a command or illegal for a named reason (R77, R79). -/
def decode (w : CmdWord) : Except Illegal Instr := (Fields.ofWord w).decode

/-- The fields of a command that uses none but OP (R76). -/
def Fields.plain (op : BitVec 6) : Fields := ⟨op, 0, 0, 0, 0, 0⟩

/-- The fields of a command, unused ones 0 (R76, R77). -/
def Instr.fields : Instr → Fields
  | .nop => .plain 0x00
  | .pllCalc => .plain 0x01
  | .pllCalcVcxo => .plain 0x02
  | .msCalc => .plain 0x03
  | .ms67Calc => .plain 0x04
  | .rdivSel => .plain 0x05
  | .rdiv67Sel => .plain 0x06
  | .packPll .a => .plain 0x08
  | .packPll .b => { Fields.plain 0x08 with ps := 1 }
  | .packMs ch => { Fields.plain 0x09 with ch := BitVec.ofFin ch }
  | .packMs67 ch => { Fields.plain 0x0A with ch := BitVec.ofFin ch }
  | .msctlWr ch => { Fields.plain 0x0B with ch := BitVec.ofFin ch }
  | .fieldWr f ch imm => { Fields.plain 0x0C with ch := BitVec.ofFin ch, fld := f.id, imm := imm }
  | .pllRst resetA resetB =>
    { Fields.plain 0x0D with ps := BitVec.ofBool resetB ++ BitVec.ofBool resetA }
  | .packVcxo => .plain 0x0E
  | .statusRd => .plain 0x10

/-- The encoder: the command word of an instruction (R70, R77). -/
def encode (i : Instr) : CmdWord := i.fields.toWord

/-- The decoder on a word numbered as the opcode table numbers it, bits above `nbits` zero. -/
def decodeTableWord (nbits w : Nat) : Option Instr :=
  match decode (BitVec.ofNat 32 (w % 2 ^ nbits)) with
  | .ok i => some i
  | .error _ => none

/-! ## The match and mask columns of the opcode map -/

/-- One row of the opcode map: its mnemonic and its match and mask columns (R77). -/
structure Row where
  mnemonic : String
  pattern : CmdWord
  mask : CmdWord
  deriving DecidableEq, Repr

/-- The row of an instruction (R77). -/
def Instr.row : Instr → Row
  | .nop => ⟨"NOP", 0x00000000, 0xFFFFFFFF⟩
  | .pllCalc => ⟨"PLL_CALC", 0x00000001, 0xFFFFFFFF⟩
  | .pllCalcVcxo => ⟨"PLL_CALC_VCXO", 0x00000002, 0xFFFFFFFF⟩
  | .msCalc => ⟨"MS_CALC", 0x00000003, 0xFFFFFFFF⟩
  | .ms67Calc => ⟨"MS67_CALC", 0x00000004, 0xFFFFFFFF⟩
  | .rdivSel => ⟨"RDIV_SEL", 0x00000005, 0xFFFFFFFF⟩
  | .rdiv67Sel => ⟨"RDIV67_SEL", 0x00000006, 0xFFFFFFFF⟩
  | .packPll _ => ⟨"PACK_PLL", 0x00000008, 0xFFFFFDFF⟩
  | .packMs _ => ⟨"PACK_MS", 0x00000009, 0xFFFFFE3F⟩
  | .packMs67 _ => ⟨"PACK_MS67", 0x0000018A, 0xFFFFFFBF⟩
  | .msctlWr _ => ⟨"MSCTL_WR", 0x0000000B, 0xFFFFFE3F⟩
  | .fieldWr _ _ _ => ⟨"FIELD_WR", 0x0000000C, 0xFF00063F⟩
  | .pllRst _ _ => ⟨"PLL_RST", 0x0000000D, 0xFFFFF9FF⟩
  | .packVcxo => ⟨"PACK_VCXO", 0x0000000E, 0xFFFFFFFF⟩
  | .statusRd => ⟨"STATUS_RD", 0x00000010, 0xFFFFFFFF⟩

/-- `(w & mask) == match` (R77). -/
abbrev Row.Matches (r : Row) (w : CmdWord) : Prop := w &&& r.mask = r.pattern

/-! ## Assembler text (R81) -/

/-- The name of a control field in assembler text (R81, R156). -/
def Field.asm (f : Field) : String :=
  match f with
  | .oeb => "OEB"
  | .pdn => "PDN"
  | .int => "INT"
  | .pllsel => "PLLSEL"
  | .inv => "INV"
  | .src => "SRC"
  | .drv => "DRV"
  | .disState => "DIS_STATE"
  | .pllaSrc => "PLLA_SRC"
  | .pllbSrc => "PLLB_SRC"
  | .clkinDiv => "CLKIN_DIV"
  | .phase => "PHASE"
  | .fanoutClkin => "FANOUT_CLKIN"
  | .fanoutXtal => "FANOUT_XTAL"
  | .fanoutMs => "FANOUT_MS"
  | .xtalCl => "XTAL_CL"
  | .rdiv => "RDIV"
  | .divby4 => "DIVBY4"

/-- Fields whose legal CH is "0": `CLKn` is omitted in assembler text (R81, R156). -/
def Field.takesChannel (f : Field) : Bool :=
  match f with
  | .pllaSrc => false
  | .pllbSrc => false
  | .clkinDiv => false
  | .fanoutClkin => false
  | .fanoutXtal => false
  | .fanoutMs => false
  | .xtalCl => false
  | .oeb => true
  | .pdn => true
  | .int => true
  | .pllsel => true
  | .inv => true
  | .src => true
  | .drv => true
  | .disState => true
  | .phase => true
  | .rdiv => true
  | .divby4 => true

/-- `A` or `B` (R81). -/
def Pll.asm (p : Pll) : String :=
  match p with
  | .a => "A"
  | .b => "B"

/-- `CLKn` (R81). -/
def channelAsm (ch : Channel) : String := "CLK" ++ Nat.repr ch.val

/-- The assembler line of a command, its immediate in decimal (R81). -/
def Instr.asm (i : Instr) : String :=
  match i with
  | .packPll p => i.row.mnemonic ++ " " ++ p.asm
  | .packMs ch => i.row.mnemonic ++ " " ++ channelAsm ch
  | .packMs67 ch => i.row.mnemonic ++ " " ++ channelAsm ch
  | .msctlWr ch => i.row.mnemonic ++ " " ++ channelAsm ch
  | .fieldWr f ch imm =>
    i.row.mnemonic ++ " " ++ f.asm ++ ", " ++ (if f.takesChannel then channelAsm ch ++ ", " else "")
      ++ "#" ++ Nat.repr imm.toNat
  | .pllRst resetA resetB =>
    i.row.mnemonic ++ " " ++ (if resetA then "A" else "") ++ (if resetB then "B" else "")
  | .nop => i.row.mnemonic
  | .pllCalc => i.row.mnemonic
  | .pllCalcVcxo => i.row.mnemonic
  | .msCalc => i.row.mnemonic
  | .ms67Calc => i.row.mnemonic
  | .rdivSel => i.row.mnemonic
  | .rdiv67Sel => i.row.mnemonic
  | .packVcxo => i.row.mnemonic
  | .statusRd => i.row.mnemonic

end Sys2Proof
end

