-- ==== Sys2Proof/Machine/State.lean ====
section
/-! DEFINITION. The state of the divider engine as plain data (10_state.md), with the inputs the outside
world has in store for it and the record of what the outside has seen; its reset value; and the reasons a
step can stop. -/

namespace Sys2Proof.Machine

/-! ## Engine registers -/

/-- The names of the 16 engine registers, in index order (R20). -/
inductive Reg where
  | freq
  | pllf
  | ref
  | corr
  | a
  | b
  | c
  | p1
  | p2
  | p3
  | rf
  | refc
  | vxp
  | rdiv
  | flags
  | stat
  deriving DecidableEq, Repr

/-- The engine register file x[0] to x[15] (R20). -/
structure Regs where
  freq : Word
  pllf : Word
  ref : Word
  corr : Word
  a : Word
  b : Word
  c : Word
  p1 : Word
  p2 : Word
  p3 : Word
  rf : Word
  refc : Word
  vxp : Word
  rdiv : Word
  flags : Word
  stat : Word
  deriving DecidableEq, Repr

/-- Every engine register 0 (R39). -/
def Regs.zero : Regs := ⟨0, 0, 0, 0, 0, 0, 0, 0, 0, 0, 0, 0, 0, 0, 0, 0⟩

/-! ## The Register Port -/

/-- One call of the Register Port (R47): `readByte(a)`, `writeByte(a, v)`, `writeBulk(a, n, bytes)`. -/
inductive Request where
  | readByte (addr : Nat)
  | writeByte (addr : Nat) (v : Byte)
  | writeBulk (addr : Nat) (bytes : List Byte)
  deriving DecidableEq, Repr

/-- How a transaction ended: a read returned its byte, a write completed, the call failed (R47), or a
reset abandoned it with its completion unknown (R215). -/
inductive PortOutcome where
  | byte (b : Byte)
  | done
  | failed
  | abandoned
  deriving DecidableEq, Repr

/-- One transaction of the engine's observable output: address, length, bytes and outcome (R50, R56). -/
structure Transaction where
  request : Request
  outcome : PortOutcome
  deriving DecidableEq, Repr

/-- Device bytes by address, addresses strictly rising (R46). An unlisted address holds no known byte. -/
abbrev Memory := List Host.Cell

/-- The hidden state of a command in progress (R38) beside the accepted word, which is CMD itself: how
many of its transactions have completed, the bytes its reads have returned (oldest first; the last one is
what a read-modify-write has read and not yet written back), and the transaction that is outstanding. -/
structure Flight where
  position : Nat
  held : List Byte
  outstanding : Option Request
  deriving DecidableEq, Repr

/-- A command just accepted: no transaction issued yet (R33, R38). -/
def Flight.fresh : Flight := ⟨0, [], none⟩

/-- One error a command raised: its cause code and the command word (R195, R196). -/
structure ErrorEntry where
  cause : BitVec 4
  word : CmdWord
  deriving DecidableEq, Repr

/-! ## The host -/

/-- What the host, or the reset input, does next (R82, R215, R218, R224): a write or a read of one host
register at a byte offset, HWAIT, an engine reset, or the initialization poll: a round of it, and the read of
STAT that ends a round. -/
inductive HostAction where
  | write (offset : Nat) (v : Word)
  | read (offset : Nat)
  | waitIdle
  | reset
  | pollInit
  | pollCheck
  deriving DecidableEq, Repr

/-- What one host read returned (R32, R224 H2). -/
structure HostRead where
  offset : Nat
  value : Word
  deriving DecidableEq, Repr

/-! ## The machine -/

/-- The machine's state. BUSY is `flight.isSome`, and STATUS is computed from it and ERRCAUSE (R32, R35). -/
structure State where
  /-- x[0] to x[15], each in the low W bits of its host register (R10, R20). -/
  regs : Regs
  /-- CMD: the last accepted command word (R32, R33). -/
  cmd : CmdWord
  /-- ERRCAUSE[3:0] (R32, R195). -/
  errCause : BitVec 4
  /-- ERRCMD[31:0] (R32, R196). -/
  errCmd : CmdWord
  /-- The command index (R34). -/
  ci : Nat
  /-- The command in progress and its hidden state; BUSY = 1 exactly when there is one (R35, R38). -/
  flight : Option Flight
  /-- The parameters of this machine (R7); no step changes them. -/
  cfg : Params
  /-- The host's actions still to come, in order (R227). -/
  host : List HostAction
  /-- How many turns the host still takes before each of the engine's coming turns on a command; past its end
  the numbers are free draws (R224 H2, R225). -/
  turns : List Nat
  /-- How many turns on a command the engine has taken: the index of the next free draw. -/
  turnDraws : Nat
  /-- The Register Port's coming replies; past its end they are free draws (R47, R50). -/
  replies : List Reply
  /-- How many replies have been drawn: the index of the next free draw. -/
  draws : Nat
  /-- The Register Port transactions so far with their results, oldest first (R50, R56, R227). -/
  trace : List Transaction
  /-- The byte the engine last wrote at each device address by a write that completed; an address that
  a later failed or abandoned write may have touched is unknown and not listed (R55, R215). -/
  written : Memory
  /-- What the host's reads returned so far, oldest first (R32). -/
  hostReads : List HostRead
  /-- Every error raised so far, oldest first; neither a host clear nor a reset erases it (R199). -/
  errorLog : List ErrorEntry
  deriving DecidableEq, Repr

/-- After reset (R39, R215): every register, CMD, ERRCAUSE, ERRCMD and ci 0, no command in progress; the
default parameters (R7), nothing done and nothing scripted by the outside world. -/
def State.reset : State where
  regs := Regs.zero
  cmd := 0
  errCause := 0
  errCmd := 0
  ci := 0
  flight := none
  cfg := Params.default
  host := []
  turns := []
  turnDraws := 0
  replies := []
  draws := 0
  trace := []
  written := []
  hostReads := []
  errorLog := []

/-! ## Why a step stops -/

/-- Faults that stop the machine. There is none: every error the spec names is recorded in ERRCAUSE and
ERRCMD and the machine goes on (R190, R196, R211), and a Register Port call that never returns leaves it
in a state with BUSY = 1 (R35). Safe: no run of the model ends here. -/
inductive Fault where
  deriving DecidableEq, Repr

/-- Why the model has no transition. -/
inductive Refusal where
  /-- Raised by `exec` for an instruction that has no meaning yet; safe. No instruction is left so. -/
  | notModelled (mnemonic : String)
  /-- Raised by the host's turn: it writes CMD while BUSY = 1, a host duty with no move (R33, R224 H4).
  Unsafe: a claim is silent on hosts that do it. -/
  | commandWriteWhileBusy
  /-- Raised by the host's turn: it writes an engine register while BUSY = 1, a host duty with no move
  (R219, R224 H5). Unsafe: a claim is silent on hosts that do it. -/
  | registerWriteWhileBusy
  /-- Raised by the host's turn: it accesses an offset R32 does not list, a host duty with no move
  (R32, R224 H6). Unsafe: a claim is silent on hosts that do it. -/
  | reservedOffset
  deriving DecidableEq, Repr

end Sys2Proof.Machine
end

