-- ==== Sys2Proof/Machine/Ops.lean ====
section
/-! DEFINITION. The named operations over the state: engine registers, device bytes, the Register Port with
its draws, acceptance, completion, error entry and clearing (R196, R199), and the straight-line scripts a
command is made of, with the one interpreter that runs them. -/

namespace Sys2Proof.Machine

/-! ## Engine registers (R10, R20) -/

/-- The register file read at one name. -/
def Regs.get (r : Regs) (n : Reg) : Word :=
  match n with
  | .freq => r.freq
  | .pllf => r.pllf
  | .ref => r.ref
  | .corr => r.corr
  | .a => r.a
  | .b => r.b
  | .c => r.c
  | .p1 => r.p1
  | .p2 => r.p2
  | .p3 => r.p3
  | .rf => r.rf
  | .refc => r.refc
  | .vxp => r.vxp
  | .rdiv => r.rdiv
  | .flags => r.flags
  | .stat => r.stat

/-- The register file with one register replaced. -/
def Regs.set (r : Regs) (n : Reg) (v : Word) : Regs :=
  match n with
  | .freq => { r with freq := v }
  | .pllf => { r with pllf := v }
  | .ref => { r with ref := v }
  | .corr => { r with corr := v }
  | .a => { r with a := v }
  | .b => { r with b := v }
  | .c => { r with c := v }
  | .p1 => { r with p1 := v }
  | .p2 => { r with p2 := v }
  | .p3 => { r with p3 := v }
  | .rf => { r with rf := v }
  | .refc => { r with refc := v }
  | .vxp => { r with vxp := v }
  | .rdiv => { r with rdiv := v }
  | .flags => { r with flags := v }
  | .stat => { r with stat := v }

/-- Register index i of x[i] to its name (R20); there is no register above 15. -/
def Reg.ofIndex (i : Nat) : Option Reg :=
  match i with
  | 0 => some .freq
  | 1 => some .pllf
  | 2 => some .ref
  | 3 => some .corr
  | 4 => some .a
  | 5 => some .b
  | 6 => some .c
  | 7 => some .p1
  | 8 => some .p2
  | 9 => some .p3
  | 10 => some .rf
  | 11 => some .refc
  | 12 => some .vxp
  | 13 => some .rdiv
  | 14 => some .flags
  | 15 => some .stat
  | _ => none

/-- The index of a register (R20). -/
def Reg.index (r : Reg) : Nat :=
  match r with
  | .freq => 0
  | .pllf => 1
  | .ref => 2
  | .corr => 3
  | .a => 4
  | .b => 5
  | .c => 6
  | .p1 => 7
  | .p2 => 8
  | .p3 => 9
  | .rf => 10
  | .refc => 11
  | .vxp => 12
  | .rdiv => 13
  | .flags => 14
  | .stat => 15

/-- x[R] (R10). -/
def State.x (s : State) (r : Reg) : Word := s.regs.get r

/-- What a W-bit register holds after `x[R] <- v`: `v mod 2^W`, the two's-complement pattern of `v` (R10). -/
def regOf (width : Nat) (v : Int) : Word := BitVec.ofInt 64 (v % 2 ^ width)

/-- x[R] <- v (R10). -/
def State.setX (s : State) (r : Reg) (v : Int) : State :=
  { s with regs := s.regs.set r (regOf s.cfg.width v) }

/-- Several register writes, in order. -/
def State.writeRegs (s : State) (ws : List (Reg × Int)) : State :=
  match ws with
  | [] => s
  | w :: rest => (s.setX w.1 w.2).writeRegs rest

/-! ## Device bytes (R46, R53, R55) -/

/-- The byte known at an address, if any. -/
def Memory.read (m : Memory) (addr : Nat) : Option Byte :=
  match m with
  | [] => none
  | c :: rest => if c.1 = addr then some c.2 else Memory.read rest addr

/-- The byte at an address becomes `v`. -/
def Memory.write (m : Memory) (addr : Nat) (v : Byte) : Memory :=
  match m with
  | [] => [(addr, v)]
  | c :: rest =>
    if addr < c.1 then (addr, v) :: c :: rest
    else if c.1 = addr then (addr, v) :: rest
    else c :: Memory.write rest addr v

/-- The byte at an address becomes unknown (R55). -/
def Memory.forget (m : Memory) (addr : Nat) : Memory :=
  match m with
  | [] => []
  | c :: rest => if c.1 = addr then Memory.forget rest addr else c :: Memory.forget rest addr

/-- The bytes at addr, addr+1, … in order (R11, R52). -/
def Memory.writeBytes (m : Memory) (addr : Nat) (bytes : List Byte) : Memory :=
  match bytes with
  | [] => m
  | v :: rest => (Memory.write m addr v).writeBytes (addr + 1) rest

/-- The n bytes from addr become unknown (R55). -/
def Memory.forgetRange (m : Memory) (addr n : Nat) : Memory :=
  match n with
  | 0 => m
  | k + 1 => (Memory.forget m addr).forgetRange (addr + 1) k

/-- The canonical form: addresses strictly rising. An unlisted address is unknown, so no entry can equal
what it reads as. -/
abbrev Memory.wf (m : Memory) : Prop := m.Pairwise fun c d => c.1 < d.1

/-! ## Draws (R47, R50, R224) -/

/-- The reply the Register Port gives `k` replies from now. -/
def State.replyAt (s : State) (k : Nat) : Reply :=
  (s.replies[k]?).getD (Config.reply (s.draws + k))

/-- The next reply is drawn. -/
def State.dropReply (s : State) : State :=
  { s with replies := s.replies.tail, draws := s.draws + 1 }

/-- How many turns the host still takes before the engine's next turn on a command. -/
def State.hostTurnsLeft (s : State) : Nat :=
  (s.turns.head?).getD (Config.hostTurns s.turnDraws)

/-- The host takes one of them. -/
def State.spendHostTurn (s : State) : State :=
  { s with turns := (s.hostTurnsLeft - 1) :: s.turns.tail }

/-- The engine takes its turn. -/
def State.beginEngineTurn (s : State) : State :=
  { s with turns := s.turns.tail, turnDraws := s.turnDraws + 1 }

/-! ## Command acceptance and completion (R33 to R36) -/

/-- BUSY (R32, R35). -/
def State.busy (s : State) : Bool := s.flight.isSome

/-- The word the engine executes: the accepted command word, held in CMD (R33, R59). -/
def fetch (s : State) : CmdWord := s.cmd

/-- A command is accepted: CMD <- w, BUSY <- 1 (R33). -/
def acceptCommand (w : CmdWord) (s : State) : State :=
  { s with cmd := w, flight := some Flight.fresh }

/-- The end of a command, with or without an error: BUSY <- 0, ci <- ci + 1 (R33, R34). -/
def completeCommand (s : State) : State := { s with flight := none, ci := s.ci + 1 }

/-! ## Errors (R190 to R200) -/

/-- The error causes of R195. -/
inductive Cause where
  | illegalCmd
  | badReference
  | divZero
  | transport
  deriving DecidableEq, Repr

/-- The cause codes of R195. -/
def Cause.code (c : Cause) : BitVec 4 :=
  match c with
  | .illegalCmd => 1
  | .badReference => 2
  | .divZero => 3
  | .transport => 4

/-- Error entry (R196): no register is written, ERRCAUSE <- code, ERRCMD <- the command word, and the
command ends. The error stays in the log of the run (R199). -/
def enterError (c : Cause) (s : State) : State :=
  completeCommand
    { s with errCause := c.code, errCmd := s.cmd, errorLog := s.errorLog ++ [⟨c.code, s.cmd⟩] }

/-- Clearing, the way back from an error (R199): ERRCAUSE <- 0, ERRCMD <- 0, nothing else. The log of the run
keeps the error. -/
def clearError (s : State) : State := { s with errCause := 0, errCmd := 0 }

/-! ## Register Port transactions (R47, R53 to R56) -/

/-- The first device address of a transaction. -/
def Request.addr (r : Request) : Nat :=
  match r with
  | .readByte a => a
  | .writeByte a _ => a
  | .writeBulk a _ => a

/-- The bytes a transaction writes; none for a read. -/
def Request.payload (r : Request) : List Byte :=
  match r with
  | .readByte _ => []
  | .writeByte _ v => [v]
  | .writeBulk _ bs => bs

/-- The hidden state of the command in progress (R38). -/
def State.currentFlight (s : State) : Flight := s.flight.getD Flight.fresh

/-- A read completed with byte b. -/
def readCompleted (addr : Nat) (b : Byte) (s : State) : State :=
  { s with
    flight := some ⟨s.currentFlight.position + 1, s.currentFlight.held ++ [b], none⟩
    trace := s.trace ++ [⟨.readByte addr, .byte b⟩] }

/-- A write completed: its bytes stay written whatever the command does later (R55, R192). -/
def writeCompleted (r : Request) (s : State) : State :=
  { s with
    flight := some ⟨s.currentFlight.position + 1, s.currentFlight.held, none⟩
    trace := s.trace ++ [⟨r, .done⟩]
    written := s.written.writeBytes r.addr r.payload }

/-- A transaction failed: TRANSPORT, and the bytes a failed write targets are unknown (R55, R192). -/
def transactionFailed (r : Request) (s : State) : State :=
  enterError .transport
    { s with
      trace := s.trace ++ [⟨r, .failed⟩]
      written := s.written.forgetRange r.addr r.payload.length }

/-- A transaction is outstanding: the port has not returned, BUSY stays 1 (R35, R38). -/
def awaitPort (r : Request) (s : State) : State :=
  { s with flight := some { s.currentFlight with outstanding := some r } }

/-! ## Scripts: what a command does, as straight-line code (R13, R56, R225) -/

/-- A command's script: its Register Port transactions in order, ending in the register writes of a
command that completes without error (R13, R196) or in an error. -/
inductive Script where
  | finish (ws : List (Reg × Int))
  | raise (c : Cause)
  | readByte (addr : Nat) (k : Byte → Script)
  | writeByte (addr : Nat) (v : Byte) (k : Script)
  | writeBulk (addr : Nat) (bytes : List Byte) (k : Script)

/-- A script that only a legal command word leads to (R79): otherwise ILLEGAL_CMD before any other
effect (R191). -/
def Script.whenLegal (ok : Bool) (p : Script) : Script := if ok then p else .raise .illegalCmd

/-- The transaction a script issues first, if any. -/
def Script.request (p : Script) : Option Request :=
  match p with
  | .finish _ => none
  | .raise _ => none
  | .readByte a _ => some (.readByte a)
  | .writeByte a v _ => some (.writeByte a v)
  | .writeBulk a bs _ => some (.writeBulk a bs)

/-- What is left of a script after `n` transactions whose reads returned `held`; none if the script does
not have them. -/
def Script.after (p : Script) (n : Nat) (held : List Byte) : Option Script :=
  match p, n, held with
  | p, 0, [] => some p
  | .readByte _ k, n + 1, b :: rest => (k b).after n rest
  | .writeByte _ _ k, n + 1, held => k.after n held
  | .writeBulk _ _ k, n + 1, held => k.after n held
  | _, _, _ => none

/-- A script taken up again where the command in progress stands (R38). -/
def Script.resume (p : Script) (f : Flight) : Script := (p.after f.position f.held).getD p

/-- The engine runs a script: each transaction is issued only when the one before has completed or
failed (R56); a failure ends the command with TRANSPORT (R192); a call that has not returned leaves the
command in progress (R35). -/
def Script.run (p : Script) (s : State) : State :=
  match p with
  | .finish ws => completeCommand (s.writeRegs ws)
  | .raise c => enterError c s
  | .readByte a k =>
    match s.replyAt 0 with
    | .returns b => (k b).run (readCompleted a b s.dropReply)
    | .fails => transactionFailed (.readByte a) s.dropReply
    | .silent => awaitPort (.readByte a) s.dropReply
  | .writeByte a v k =>
    match s.replyAt 0 with
    | .returns _ => k.run (writeCompleted (.writeByte a v) s.dropReply)
    | .fails => transactionFailed (.writeByte a v) s.dropReply
    | .silent => awaitPort (.writeByte a v) s.dropReply
  | .writeBulk a bs k =>
    match s.replyAt 0 with
    | .returns _ => k.run (writeCompleted (.writeBulk a bs) s.dropReply)
    | .fails => transactionFailed (.writeBulk a bs) s.dropReply
    | .silent => awaitPort (.writeBulk a bs) s.dropReply

/-- One turn of the engine on a command: its script, from where the command stands. -/
def engineTurn (p : Script) (s : State) : Host.Outcome State Fault Refusal :=
  .next ((p.resume s.currentFlight).run s)

end Sys2Proof.Machine
end

