-- ==== Sys2Proof/Machine/Operands.lean ====
section
/-! DEFINITION. The operand forms of the commands: engine registers read and written as numbers (R10),
the correction (R24), the divider field slices (R145), the packed bytes of a DividerFields region, and the
read-modify-write of a control field (R155). -/

namespace Sys2Proof.Machine

/-- `x[R]` read as an unsigned value (R10). -/
def State.ux (s : State) (r : Reg) : Int := ((s.x r).toNat : Int)

/-- `sx[R]`: the W bits read as a signed two's-complement number (R10). -/
def State.sx (s : State) (r : Reg) : Int := ((s.x r).setWidth s.cfg.width).toInt

/-- The correction in ppb: `sext_64(x[CORR][31:0])` (R24). -/
def State.corr (s : State) : Int := ((s.x .corr).extractLsb' 0 32).toInt

/-- `clamp(v, lo, hi)` (R9). -/
def clamp (v lo hi : Int) : Int := if v < lo then lo else if v > hi then hi else v

/-- `x[P1][17:0]` (R145). -/
def State.p1Field (s : State) : BitVec 18 := (s.x .p1).extractLsb' 0 18

/-- `x[P2][19:0]` (R145). -/
def State.p2Field (s : State) : BitVec 20 := (s.x .p2).extractLsb' 0 20

/-- `x[P3][19:0]` (R145). -/
def State.p3Field (s : State) : BitVec 20 := (s.x .p3).extractLsb' 0 20

/-- `x[VXP][21:0]` (R27, R171). -/
def State.vxpField (s : State) : BitVec 22 := (s.x .vxp).extractLsb' 0 22

/-- `x[RDIV][2:0]` (R28, R150). -/
def State.rdivCode (s : State) : BitVec 3 := (s.x .rdiv).extractLsb' 0 3

/-- `x[A][7:0]` (R148). -/
def State.aByte (s : State) : Byte := (s.x .a).extractLsb' 0 8

/-- The 8 bytes of a DividerFields region from offset +0 to +7, with the given bits 7:2 in the byte at
offset +2 (R145). -/
def dividerBytes (p1 : BitVec 18) (p2 p3 : BitVec 20) (top : BitVec 6) : List Byte :=
  [ p3.extractLsb' 8 8,
    p3.extractLsb' 0 8,
    top ++ p1.extractLsb' 16 2,
    p1.extractLsb' 8 8,
    p1.extractLsb' 0 8,
    p3.extractLsb' 16 4 ++ p2.extractLsb' 16 4,
    p2.extractLsb' 8 8,
    p2.extractLsb' 0 8 ]

/-- `(v & ~m & 0xFF) | (val << lsb)` with `m = (2^w - 1) << lsb` (R155). -/
def insertField (v : Byte) (lsb width : Nat) (val : Byte) : Byte :=
  (v &&& ~~~(BitVec.ofNat 8 (2 ^ width - 1) <<< lsb)) ||| (val <<< lsb)

/-- The read-modify-write primitive RMW (R155): two transactions, the read first. -/
def rmw (addr lsb width : Nat) (val : Byte) (k : Script) : Script :=
  .readByte addr fun v => .writeByte addr (insertField v lsb width val) k

end Sys2Proof.Machine
end

