-- ==== Sys2Proof/Machine/Flags.lean ====
section
/-! DEFINITION. The flag computations: field overflow (R12), the FLAGS word (R30), the STAT word (R31) and
the STATUS register (R32). -/

namespace Sys2Proof.Machine

/-- FieldsOvf (R12): a field does not fit its device width. -/
def fieldsOvf (p1 p2 p3 : Int) : Bool :=
  !(decide (0 ≤ p1) && decide (p1 ≤ Config.p1Max) && decide (0 ≤ p2) && decide (p2 ≤ Config.p2Max)
    && decide (0 ≤ p3) && decide (p3 ≤ Config.p3Max))

/-- The FLAGS word, every bit not named 0 (R30). -/
def flagsWord (ok divBy4 intMode ovf free : Bool) : Word :=
  (BitVec.ofBool free ++ BitVec.ofBool ovf ++ BitVec.ofBool intMode ++ BitVec.ofBool divBy4
    ++ BitVec.ofBool ok).setWidth 64

/-- FLAGS.DIVBY4, bit 1 (R30, R150). -/
def State.divBy4Flag (s : State) : Bool := (s.x .flags).getLsbD 1

/-- FLAGS.INTMODE, bit 2 (R30, R150). -/
def State.intModeFlag (s : State) : Bool := (s.x .flags).getLsbD 2

/-- The STAT word of the two device status bytes, as R180 assembles it in the layout of R31. -/
def statWord (s0 s1 : Byte) : Word :=
  (s0.extractLsb' 7 1).setWidth 64 ||| (s0.extractLsb' 6 1).setWidth 64 <<< 1
    ||| (s0.extractLsb' 5 1).setWidth 64 <<< 2 ||| (s0.extractLsb' 4 1).setWidth 64 <<< 3
    ||| (s0.extractLsb' 0 2).setWidth 64 <<< 4
    ||| (s1.extractLsb' 7 1).setWidth 64 <<< 8 ||| (s1.extractLsb' 6 1).setWidth 64 <<< 9
    ||| (s1.extractLsb' 5 1).setWidth 64 <<< 10 ||| (s1.extractLsb' 4 1).setWidth 64 <<< 11
    ||| s0.setWidth 64 <<< 16 ||| s1.setWidth 64 <<< 24

/-- STAT.SYS_INIT, bit 0 (R31, R218). -/
def State.sysInit (s : State) : Bool := (s.x .stat).getLsbD 0

/-- STATUS: bit 0 BUSY, bit 1 ERR = (ERRCAUSE ≠ 0), other bits 0 (R32). -/
def State.statusWord (s : State) : Word :=
  (BitVec.ofBool (s.errCause != 0) ++ BitVec.ofBool s.busy).setWidth 64

end Sys2Proof.Machine
end

