-- ==== Sys2Proof/Machine/Bus.lean ====
section
/-! DEFINITION. The host's side of the machine: the host register space (R32), what a host write and a host
read do (R32, R33, R198, R199), the reset input (R215), one turn of the host (R82, R224), and the host
actions a program line stands for (R82, R83). -/

namespace Sys2Proof.Machine

/-- The registers of the host register space (R32). -/
inductive HostReg where
  | cmd
  | status
  | errCause
  | errCmd
  | engine (r : Reg)
  deriving DecidableEq, Repr

/-- The register at a byte offset (R32); every other offset is reserved. Each access moves one whole
64-bit register. -/
def hostReg (offset : Nat) : Option HostReg :=
  if offset = 0x000 then some .cmd
  else if offset = 0x008 then some .status
  else if offset = 0x010 then some .errCause
  else if offset = 0x018 then some .errCmd
  else if 0x080 ≤ offset ∧ offset % 8 = 0 then (Reg.ofIndex ((offset - 0x080) / 8)).map .engine
  else none

/-- What a host read returns (R32). -/
def hostValue (r : HostReg) (s : State) : Word :=
  match r with
  | .cmd => s.cmd.setWidth 64
  | .status => s.statusWord
  | .errCause => s.errCause.setWidth 64
  | .errCmd => s.errCmd.setWidth 64
  | .engine r => s.x r

/-- A host write to CMD with BUSY = 0: accepted, or dropped while an error is pending (R33, R198). -/
def hostCommand (w : CmdWord) (s : State) : State :=
  if s.errCause = 0 then acceptCommand w s else s

/-- A host write (R32, R33, R199, R224). -/
def hostWrite (offset : Nat) (v : Word) (s : State) : Host.Outcome State Fault Refusal :=
  match hostReg offset with
  | none => .refused .reservedOffset
  | some .cmd => if s.busy then .refused .commandWriteWhileBusy else .next (hostCommand (v.setWidth 32) s)
  | some .status => .next s
  | some .errCause => .next (clearError s)
  | some .errCmd => .next s
  | some (.engine r) => if s.busy then .refused .registerWriteWhileBusy else .next (s.setX r v.toNat)

/-- A host read, at any time: its value is recorded (R32, R224 H2). -/
def hostRead (offset : Nat) (s : State) : Host.Outcome State Fault Refusal :=
  match hostReg offset with
  | none => .refused .reservedOffset
  | some r => .next { s with hostReads := s.hostReads ++ [⟨offset, hostValue r s⟩] }

/-- The transaction a reset abandons may or may not have completed: the bytes it writes are unknown
(R55, R215). -/
def abandonTransaction (s : State) : State :=
  match s.currentFlight.outstanding with
  | none => s
  | some r =>
    { s with
      trace := s.trace ++ [⟨r, .abandoned⟩]
      written := s.written.forgetRange r.addr r.payload.length }

/-- The reset input (R39, R215, R216): the engine's state goes to its reset values, the device and the
record of the outside world do not. -/
def resetEngine (s : State) : State :=
  { abandonTransaction s with
    regs := Regs.zero
    cmd := 0
    errCause := 0
    errCmd := 0
    ci := 0
    flight := none }

/-- The host's next action is taken from its list. -/
def popHost (s : State) : State := { s with host := s.host.tail }

/-! ## Host programs (R82, R83) -/

/-- The byte offset of engine register x[i] (R32). -/
def Reg.offset (r : Reg) : Nat := 0x080 + 8 * r.index

/-- `HWR name, value`: a negative value stands for its 64-bit two's complement (R82). -/
def hwr (r : Reg) (v : Int) : HostAction := .write r.offset (BitVec.ofInt 64 v)

/-- `HRD name` (R82). -/
def hrd (r : Reg) : HostAction := .read r.offset

/-- `HCLR` (R82). -/
def hclr : HostAction := .write 0x010 0

/-- `HWAIT` (R82). -/
def hwait : HostAction := .waitIdle

/-- A command mnemonic in a host program: HWAIT, then a host write of its word to CMD (R82). -/
def commandActions (i : Instr) : List HostAction := [hwait, .write 0x000 ((encode i).setWidth 64)]

/-- The expansion of a pseudo-instruction (R83). -/
def expandPseudo (p : Pseudo) : List Instr :=
  match p with
  | .oeOn ch => [.fieldWr .oeb ch 0]
  | .oeOff ch => [.fieldWr .oeb ch 1]
  | .setPll p => [.pllCalc, .packPll p]
  | .setMs ch => [.packMs ch, .msctlWr ch]
  | .setMs67 ch => [.packMs67 ch, .msctlWr ch]
  | .pllSel ch .a => [.fieldWr .pllsel ch 0]
  | .pllSel ch .b => [.fieldWr .pllsel ch 1]

/-- The channels a pseudo-instruction takes (R83). -/
def Pseudo.wf (p : Pseudo) : Bool :=
  match p with
  | .oeOn _ => true
  | .oeOff _ => true
  | .setPll _ => true
  | .setMs ch => decide (ch.val ≤ 5)
  | .setMs67 ch => decide (6 ≤ ch.val)
  | .pllSel _ _ => true

/-- The assembler line of a pseudo-instruction (R83). -/
def Pseudo.asm (p : Pseudo) : String :=
  match p with
  | .oeOn ch => "OE_ON " ++ channelAsm ch
  | .oeOff ch => "OE_OFF " ++ channelAsm ch
  | .setPll p => "SET_PLL " ++ p.asm
  | .setMs ch => "SET_MS " ++ channelAsm ch
  | .setMs67 ch => "SET_MS67 " ++ channelAsm ch
  | .pllSel ch p => "PLL_SEL " ++ channelAsm ch ++ ", " ++ p.asm

/-! ## One turn of the host -/

/-- One round of the initialization poll: STATUS_RD, then a read of STAT (R182, R218). -/
def pollRound : List HostAction := commandActions .statusRd ++ [hwait, .pollCheck]

/-- One turn of the host. HWAIT reads STATUS and stays in the list until it reads BUSY = 0 (R82). The
initialization poll goes on for another round while STAT.SYS_INIT reads 1, without a bound (R218). A host
with nothing to do lets the machine as it is (R217). -/
def hostTurn (s : State) : Host.Outcome State Fault Refusal :=
  match s.host with
  | [] => .next s
  | .write offset v :: _ => hostWrite offset v (popHost s)
  | .read offset :: _ => hostRead offset (popHost s)
  | .waitIdle :: _ => hostRead 0x008 (if s.busy then s else popHost s)
  | .reset :: _ => .next (resetEngine (popHost s))
  | .pollInit :: rest => .next { s with host := pollRound ++ rest }
  | .pollCheck :: rest =>
    hostRead (Reg.offset .stat) { s with host := if s.sysInit then .pollInit :: rest else rest }

end Sys2Proof.Machine
end

