-- ==== Sys2Proof/Machine/Pll.lean ====
section
/-! DEFINITION. The PLL feedback divider calculator (40_pll_feedback.md): PLL_CALC and PLL_CALC_VCXO, and the
field encoding both calculators share (R12). -/

namespace Sys2Proof.Machine

/-- RoundHalfAway (R12) of the rational n / d, d > 0. -/
def roundHalfAway (n d : Int) : Int :=
  if 0 ≤ n then (2 * n + d) / (2 * d) else -((2 * -n + d) / (2 * d))

/-- CorrectRef (R91). -/
def correctRef (mode : CorrMode) (ref corr : Int) : Int :=
  match mode with
  | .exactRational => ref + roundHalfAway (ref * corr) 1000000000
  | .fixed31 => ref + ((corr * 2 ^ 31).tdiv 1000000000 * ref) / 2 ^ 31

/-- The DividerFields triple (R14). -/
structure DividerFields where
  p1 : Int
  p2 : Int
  p3 : Int
  deriving DecidableEq, Repr

/-- EncodeFields (R12), c > 0. -/
def encodeDivider (a b c : Int) : DividerFields :=
  let t := 128 * b / c
  ⟨128 * a + t - 512, 128 * b - c * t, c⟩

/-- FieldsOvf of a triple (R12). -/
def DividerFields.ovf (d : DividerFields) : Bool := fieldsOvf d.p1 d.p2 d.p3

/-- What a PLL calculation chooses (R92). -/
structure PllResult where
  a : Int
  b : Int
  c : Int
  fields : DividerFields
  rf : Int
  refc : Int
  deriving DecidableEq, Repr

/-- The feedback divider for a target and a corrected reference, refc > 0: steps 2 to 6 of R92. -/
def pllDivider (target refc : Int) : PllResult :=
  let t0 := clamp target Config.vcoMin Config.vcoMax
  let a := t0 / refc
  let t :=
    if a < Config.pllAMin then refc * Config.pllAMin
    else if a > Config.pllAMax then refc * Config.pllAMax
    else t0
  let b := t % refc * Config.rfracDenom / refc
  let c := if b ≠ 0 then Config.rfracDenom else 1
  ⟨a, b, c, encodeDivider a b c, refc * a + refc * b / c, refc⟩

/-- The register writes the two PLL commands share, RF aside (R92). -/
def pllWrites (r : PllResult) (rf : Int) : List (Reg × Int) :=
  [(.a, r.a), (.b, r.b), (.c, r.c),
    (.p1, r.fields.p1), (.p2, r.fields.p2), (.p3, r.fields.p3),
    (.rf, rf), (.refc, r.refc),
    (.flags, (flagsWord true false false r.fields.ovf false).toNat)]

/-- A PLL calculation whose RF is `rf` of its result (R90 to R93). -/
def pllScript (rf : PllResult → Int) (s : State) : Script :=
  let refc := correctRef s.cfg.corrMode (s.ux .ref) s.corr
  if refc ≤ 0 then .raise .badReference
  else
    let r := pllDivider (s.ux .pllf) refc
    .finish (pllWrites r (rf r))

/-- The script of PLL_CALC (R92). -/
def scriptPllCalc (s : State) : Script := pllScript (fun r => r.rf) s

/-- PLL_CALC (R92). -/
def execPllCalc (s : State) : Host.Outcome State Fault Refusal := engineTurn (scriptPllCalc s) s

/-- The script of PLL_CALC_VCXO: RF is the repurposed value 128·a·1,000,000 + b (R93). -/
def scriptPllCalcVcxo (s : State) : Script := pllScript (fun r => 128 * r.a * 1000000 + r.b) s

/-- PLL_CALC_VCXO (R93). -/
def execPllCalcVcxo (s : State) : Host.Outcome State Fault Refusal :=
  engineTurn (scriptPllCalcVcxo s) s

end Sys2Proof.Machine
end

