-- ==== Sys2Proof/Machine/Multisynth.lean ====
section
/-! DEFINITION. The multisynth divider selectors (41_multisynth.md): MS_CALC for channels 0-5 and MS67_CALC
for channels 6-7. -/

namespace Sys2Proof.Machine

/-! ## MS_CALC -/

/-- What MS_CALC chooses (R110). -/
structure MsResult where
  a : Int
  b : Int
  c : Int
  rf : Int
  divBy4 : Bool
  free : Bool
  deriving DecidableEq, Repr

/-- The free-mode divider of an entry-clamped frequency, with the substitutions 5 → 4 and 7 → 6 (R111). -/
def msFreeDivider (f : Int) : Int :=
  let a := Config.vcoMax / f
  if a = 5 then 4 else if a = 7 then 6 else a

/-- MS_CALC on its operands; none is DIV_ZERO (R110). Divide-by-4 is decided on the entry-clamped
frequency (R113). -/
def msCalc (freq pll : Int) : Option MsResult :=
  let f := clamp freq Config.msMinFreq Config.msMaxFreq
  let d4 := decide (Config.divBy4Freq ≤ f)
  if pll = 0 then
    let a := if d4 then 4 else msFreeDivider f
    some ⟨a, 0, 1, a * f, d4, true⟩
  else
    let a := pll / f
    let f' :=
      if a < Config.msAMin then pll / Config.msAMin
      else if a > Config.msAMax then pll / Config.msAMax
      else f
    if f' = 0 then none
    else
      let b := pll % f' * Config.rfracDenom / f'
      let c := if b ≠ 0 then Config.rfracDenom else 1
      some ⟨a, b, c, f', d4, false⟩

/-- The fields MS_CALC encodes: the divide-by-4 sentinel or EncodeFields (R110, R113). -/
def MsResult.fields (r : MsResult) : DividerFields :=
  if r.divBy4 then ⟨0, 0, 1⟩ else encodeDivider r.a r.b r.c

/-- The register writes of MS_CALC (R110, R114). -/
def msWrites (r : MsResult) : List (Reg × Int) :=
  [(.a, r.a), (.b, r.b), (.c, r.c),
    (.p1, r.fields.p1), (.p2, r.fields.p2), (.p3, r.fields.p3),
    (.rf, r.rf),
    (.flags, (flagsWord true r.divBy4 r.divBy4 r.fields.ovf r.free).toNat)]

/-- The script of MS_CALC (R110). -/
def scriptMsCalc (s : State) : Script :=
  match msCalc (s.ux .freq) (s.ux .pllf) with
  | none => .raise .divZero
  | some r => .finish (msWrites r)

/-- MS_CALC (R110 to R114). -/
def execMsCalc (s : State) : Host.Outcome State Fault Refusal := engineTurn (scriptMsCalc s) s

/-! ## MS67_CALC -/

/-- What MS67_CALC chooses; `a` matters only when `ok` (R120, R123). -/
structure Ms67Result where
  a : Int
  rf : Int
  ok : Bool
  free : Bool
  deriving DecidableEq, Repr

/-- An odd quotient made even (R121). -/
def makeEven (mode : EvenMode) (a : Int) : Int :=
  if a % 2 = 1 then
    match mode with
    | .up => a + 1
    | .down => a - 1
  else a

/-- The single step of the free mode when a·f leaves the VCO range (R121). -/
def ms67Step (a f : Int) : Int :=
  if a * f > Config.vcoMax then a - 2 else if a * f < Config.vcoMin then a + 2 else a

/-- MS67_CALC on its operands (R120). -/
def ms67Calc (cfg : Params) (freq pll : Int) : Ms67Result :=
  let f := clamp freq Config.msMinFreq Config.ms67MaxFreq
  if pll = 0 then
    let a0 := makeEven cfg.ms67Even ((Config.vcoMax - (cfg.ms67Margin : Int)) / f)
    let a := ms67Step (clamp a0 Config.ms67AMin Config.ms67AMax) f
    ⟨a, a * f, true, true⟩
  else
    let a := pll / f
    let ok := decide (pll % f = 0) && decide (Config.ms67AMin ≤ a) && decide (a ≤ Config.ms67AMax)
    ⟨a, if ok then f else 0, ok, false⟩

/-- The register writes of MS67_CALC: A, B and C only when OK; P1 to P3 never (R123). -/
def ms67Writes (r : Ms67Result) : List (Reg × Int) :=
  (if r.ok then [(.a, r.a), (.b, 0), (.c, 1)] else [])
    ++ [(.rf, r.rf),
      (.flags, (flagsWord r.ok false false (r.ok && decide (r.a > 255)) r.free).toNat)]

/-- The script of MS67_CALC (R120). -/
def scriptMs67Calc (s : State) : Script := .finish (ms67Writes (ms67Calc s.cfg (s.ux .freq) (s.ux .pllf)))

/-- MS67_CALC (R120 to R124). -/
def execMs67Calc (s : State) : Host.Outcome State Fault Refusal := engineTurn (scriptMs67Calc s) s

end Sys2Proof.Machine
end

