-- ==== Sys2Proof/Machine/Packer.lean ====
section
/-! DEFINITION. The register bit-packer and control-bit editor (43_packer.md): PACK_PLL, PACK_MS, PACK_MS67,
MSCTL_WR, FIELD_WR, PLL_RST and PACK_VCXO. None of them writes an engine register. -/

namespace Sys2Proof.Machine

/-! ## PACK_PLL -/

/-- The parameter region of a PLL (R146). -/
def pllBase (p : Pll) : Nat :=
  match p with
  | .a => 26
  | .b => 34

/-- The script of PACK_PLL: bits 7:2 of the byte at +2 are written 0 (R146). -/
def scriptPackPll (p : Pll) (s : State) : Script :=
  .writeBulk (pllBase p) (dividerBytes s.p1Field s.p2Field s.p3Field 0) (.finish [])

/-- PACK_PLL (R146). -/
def execPackPll (p : Pll) (s : State) : Host.Outcome State Fault Refusal :=
  engineTurn (scriptPackPll p s) s

/-! ## PACK_MS -/

/-- The multisynth region of channel n, n ≤ 5 (R147). -/
def msBase (ch : Channel) : Nat := 42 + 8 * ch.val

/-- The script of PACK_MS: the byte at +2 is read first and keeps its bits 7:2 (R147). -/
def scriptPackMs (ch : Channel) (s : State) : Script :=
  .whenLegal (Instr.packMs ch).wf
    (.readByte (msBase ch + 2) fun v =>
      .writeBulk (msBase ch) (dividerBytes s.p1Field s.p2Field s.p3Field (v.extractLsb' 2 6)) (.finish []))

/-- PACK_MS (R147). -/
def execPackMs (ch : Channel) (s : State) : Host.Outcome State Fault Refusal :=
  engineTurn (scriptPackMs ch s) s

/-! ## PACK_MS67 -/

/-- The script of PACK_MS67: one byte holds a (R148). -/
def scriptPackMs67 (ch : Channel) (s : State) : Script :=
  .whenLegal (Instr.packMs67 ch).wf (.writeByte (90 + (ch.val - 6)) s.aByte (.finish []))

/-- PACK_MS67 (R148). -/
def execPackMs67 (ch : Channel) (s : State) : Host.Outcome State Fault Refusal :=
  engineTurn (scriptPackMs67 ch s) s

/-! ## MSCTL_WR -/

/-- The R-divider and divide-by-4 bits of the byte at +2 replaced, bit 7 and bits 1:0 kept (R149, R150). -/
def msctlByte (v : Byte) (k : BitVec 3) (divBy4 : Bool) : Byte :=
  (v &&& 0x83) ||| (k.setWidth 8 <<< 4) ||| (if divBy4 then 0x0C else 0x00)

/-- Bit 6 of the channel control byte replaced (R150). -/
def intModeByte (u : Byte) (intMode : Bool) : Byte :=
  (u &&& 0xBF) ||| ((BitVec.ofBool intMode).setWidth 8 <<< 6)

/-- Byte 92 with the R-divider code of channel 6 replaced (R149, R150). -/
def rdiv6Byte (v : Byte) (k : BitVec 3) : Byte := (v &&& 0xF8) ||| k.setWidth 8

/-- Byte 92 with the R-divider code of channel 7 replaced (R149, R150). -/
def rdiv7Byte (v : Byte) (k : BitVec 3) : Byte := (v &&& 0x8F) ||| (k.setWidth 8 <<< 4)

/-- The script of MSCTL_WR (R150): for channels 0-5 the byte at +2, then the channel control byte; for
channels 6-7 byte 92 only. -/
def scriptMsctlWr (ch : Channel) (s : State) : Script :=
  if ch.val ≤ 5 then
    .readByte (ctlByteAddr ch) fun v =>
      .writeByte (ctlByteAddr ch) (msctlByte v s.rdivCode s.divBy4Flag)
        (.readByte (16 + ch.val) fun u =>
          .writeByte (16 + ch.val) (intModeByte u s.intModeFlag) (.finish []))
  else if ch.val = 6 then
    .readByte 92 fun v => .writeByte 92 (rdiv6Byte v s.rdivCode) (.finish [])
  else
    .readByte 92 fun v => .writeByte 92 (rdiv7Byte v s.rdivCode) (.finish [])

/-- MSCTL_WR (R150). -/
def execMsctlWr (ch : Channel) (s : State) : Host.Outcome State Fault Refusal :=
  engineTurn (scriptMsctlWr ch s) s

/-! ## FIELD_WR -/

/-- The script of FIELD_WR: read-modify-write of one control field (R155 to R157). -/
def scriptFieldWr (f : Field) (ch : Channel) (imm : Byte) : Script :=
  .whenLegal (Instr.fieldWr f ch imm).wf
    (rmw (fieldTable f ch).addr (fieldTable f ch).lsb (fieldTable f ch).width imm (.finish []))

/-- FIELD_WR (R157). -/
def execFieldWr (f : Field) (ch : Channel) (imm : Byte) (s : State) : Host.Outcome State Fault Refusal :=
  engineTurn (scriptFieldWr f ch imm) s

/-! ## PLL_RST -/

/-- The byte PLL_RST writes to register 177: bit 5 resets PLLA, bit 7 resets PLLB (R160). -/
def pllRstByte (resetA resetB : Bool) : Byte :=
  (if resetA then 0x20 else 0x00) ||| (if resetB then 0x80 else 0x00)

/-- The script of PLL_RST: a plain write (R160). -/
def scriptPllRst (resetA resetB : Bool) : Script :=
  .whenLegal (Instr.pllRst resetA resetB).wf (.writeByte 177 (pllRstByte resetA resetB) (.finish []))

/-- PLL_RST (R160). -/
def execPllRst (resetA resetB : Bool) (s : State) : Host.Outcome State Fault Refusal :=
  engineTurn (scriptPllRst resetA resetB) s

/-! ## PACK_VCXO -/

/-- The three bytes of the VCXO parameter, low byte first, bits 7:6 of the last 0 (R171). -/
def vcxoBytes (v : BitVec 22) : List Byte :=
  [v.extractLsb' 0 8, v.extractLsb' 8 8, (v.extractLsb' 16 6).setWidth 8]

/-- The script of PACK_VCXO: one bulk write of 3 bytes (R171). -/
def scriptPackVcxo (s : State) : Script := .writeBulk 162 (vcxoBytes s.vxpField) (.finish [])

/-- PACK_VCXO (R171). -/
def execPackVcxo (s : State) : Host.Outcome State Fault Refusal := engineTurn (scriptPackVcxo s) s

end Sys2Proof.Machine
end

