-- ==== Sys2Proof/Machine/Rdiv.lean ====
section
/-! DEFINITION. The R-divider selectors (42_rdiv.md): RDIV_SEL and RDIV67_SEL. -/

namespace Sys2Proof.Machine

/-- The R-divider code of a frequency: k = 7 - j for the band [M·2^j, M·2^(j+1)) that holds it, j from 0
to 6, and 0 when none does (R135). -/
def rdivSelect (m f : Int) : Nat :=
  (List.range 7).foldl (fun k j => if m * 2 ^ j ≤ f ∧ f < m * 2 ^ (j + 1) then 7 - j else k) 0

/-- RSelect(M): FREQ <- f·2^k, RDIV <- k (R135). -/
def rdivScript (m : Nat) (s : State) : Script :=
  let f := s.ux .freq
  let k := rdivSelect m f
  .finish [(.freq, f * 2 ^ k), (.rdiv, k)]

/-- The script of RDIV_SEL: M = CLKOUT_MIN (R135). -/
def scriptRdivSel (s : State) : Script := rdivScript s.cfg.clkoutMin s

/-- RDIV_SEL (R135). -/
def execRdivSel (s : State) : Host.Outcome State Fault Refusal := engineTurn (scriptRdivSel s) s

/-- The script of RDIV67_SEL: M = CLKOUT67_MIN (R136). -/
def scriptRdiv67Sel (s : State) : Script := rdivScript s.cfg.clkout67Min s

/-- RDIV67_SEL (R136). -/
def execRdiv67Sel (s : State) : Host.Outcome State Fault Refusal := engineTurn (scriptRdiv67Sel s) s

end Sys2Proof.Machine
end

