-- ==== Sys2Proof/Machine/Status.lean ====
section
/-! DEFINITION. The status decoder and NOP (44_status.md). -/

namespace Sys2Proof.Machine

/-- The script of NOP: nothing (R181). -/
def scriptNop : Script := .finish []

/-- NOP (R181). -/
def execNop (s : State) : Host.Outcome State Fault Refusal := engineTurn scriptNop s

/-- The script of STATUS_RD: register 0, then register 1, then STAT (R180). -/
def scriptStatusRd : Script :=
  .readByte 0 fun s0 => .readByte 1 fun s1 => .finish [(.stat, (statWord s0 s1).toNat)]

/-- STATUS_RD (R180). -/
def execStatusRd (s : State) : Host.Outcome State Fault Refusal := engineTurn scriptStatusRd s

end Sys2Proof.Machine
end

