-- ==== Sys2Proof/Machine/Dispatch.lean ====
section
/-! DEFINITION. One arm per command of the opcode map (R77). -/

namespace Sys2Proof.Machine

def exec (i : Instr) (s : State) : Host.Outcome State Fault Refusal :=
  match i with
  | .nop => Sys2Proof.Machine.execNop s
  | .pllCalc => Sys2Proof.Machine.execPllCalc s
  | .pllCalcVcxo => Sys2Proof.Machine.execPllCalcVcxo s
  | .msCalc => Sys2Proof.Machine.execMsCalc s
  | .ms67Calc => Sys2Proof.Machine.execMs67Calc s
  | .rdivSel => Sys2Proof.Machine.execRdivSel s
  | .rdiv67Sel => Sys2Proof.Machine.execRdiv67Sel s
  | .packPll p => Sys2Proof.Machine.execPackPll p s
  | .packMs ch => Sys2Proof.Machine.execPackMs ch s
  | .packMs67 ch => Sys2Proof.Machine.execPackMs67 ch s
  | .msctlWr ch => Sys2Proof.Machine.execMsctlWr ch s
  | .fieldWr f ch imm => Sys2Proof.Machine.execFieldWr f ch imm s
  | .pllRst resetA resetB => Sys2Proof.Machine.execPllRst resetA resetB s
  | .packVcxo => Sys2Proof.Machine.execPackVcxo s
  | .statusRd => Sys2Proof.Machine.execStatusRd s

end Sys2Proof.Machine
end

