-- ==== Sys2Proof/Machine/Step.lean ====
section
/-! DEFINITION. One step of the machine. With no command in progress the host moves; while one is in
progress the host takes the turns the state gives it, a finite number, and then the engine takes its turn
(R15, R33, R35, R224 H2, R225). -/

namespace Sys2Proof.Machine

/-- One turn of the engine on the accepted word: a command runs, an illegal word raises ILLEGAL_CMD
before any other effect (R79, R191). -/
def engineStep (s : State) : Host.Outcome State Fault Refusal :=
  match decode (fetch s) with
  | .ok i => exec i s
  | .error _ => .next (enterError .illegalCmd s)

/-- One step. -/
def step (s : State) : Host.Outcome State Fault Refusal :=
  match s.flight with
  | none => hostTurn s
  | some _ =>
    match s.hostTurnsLeft with
    | 0 => engineStep s.beginEngineTurn
    | _ + 1 => hostTurn s.spendHostTurn

/-- The state in which the command word numbered `w` has just been accepted and the engine moves next:
the engine takes its command from CMD, where an accepted host write puts it (R33). -/
def State.withFetchWord (s : State) (nbits w : Nat) : State :=
  { acceptCommand (BitVec.ofNat 32 (w % 2 ^ nbits)) s with turns := 0 :: s.turns }

end Sys2Proof.Machine
end

