-- ==== Sys2Proof/Machine/DeviceMap.lean ====
section
/-! DEFINITION. The device register map of R48 as data: which region a device address belongs to. The
engine never consults it; statements about which registers a command reaches do (R49). And the informative
meanings of field values (R61). -/

namespace Sys2Proof.Machine

/-- The regions of the device register map, with the channel where a row is per channel (R48). -/
inductive DeviceRegion where
  | status
  | interruptStatus
  | outputEnable
  | pllSource
  | channelControl (n : Nat)
  | disableState03
  | disableState47
  | pllParams (p : Pll)
  | multisynth (n : Nat)
  | multisynth67 (n : Nat)
  | rdivider67
  | vcxoParams
  | phaseOffset (n : Nat)
  | pllReset
  | crystalLoad
  | fanoutEnable
  deriving DecidableEq, Repr

/-- The region of a device address; none for an address R48 does not name. -/
def deviceRegion (addr : Nat) : Option DeviceRegion :=
  if addr = 0 then some .status
  else if addr = 1 then some .interruptStatus
  else if addr = 3 then some .outputEnable
  else if addr = 15 then some .pllSource
  else if 16 ≤ addr ∧ addr ≤ 23 then some (.channelControl (addr - 16))
  else if addr = 24 then some .disableState03
  else if addr = 25 then some .disableState47
  else if 26 ≤ addr ∧ addr ≤ 33 then some (.pllParams .a)
  else if 34 ≤ addr ∧ addr ≤ 41 then some (.pllParams .b)
  else if 42 ≤ addr ∧ addr ≤ 89 then some (.multisynth ((addr - 42) / 8))
  else if addr = 90 then some (.multisynth67 6)
  else if addr = 91 then some (.multisynth67 7)
  else if addr = 92 then some .rdivider67
  else if 162 ≤ addr ∧ addr ≤ 164 then some .vcxoParams
  else if 165 ≤ addr ∧ addr ≤ 170 then some (.phaseOffset (addr - 165))
  else if addr = 177 then some .pllReset
  else if addr = 183 then some .crystalLoad
  else if addr = 187 then some .fanoutEnable
  else none

/-- The region each control field of R156 names by its R48 row. -/
def fieldRegion (f : Field) (ch : Channel) : DeviceRegion :=
  match f with
  | .oeb => .outputEnable
  | .pdn => .channelControl ch.val
  | .int => .channelControl ch.val
  | .pllsel => .channelControl ch.val
  | .inv => .channelControl ch.val
  | .src => .channelControl ch.val
  | .drv => .channelControl ch.val
  | .disState => if ch.val ≤ 3 then .disableState03 else .disableState47
  | .pllaSrc => .pllSource
  | .pllbSrc => .pllSource
  | .clkinDiv => .pllSource
  | .phase => .phaseOffset ch.val
  | .fanoutClkin => .fanoutEnable
  | .fanoutXtal => .fanoutEnable
  | .fanoutMs => .fanoutEnable
  | .xtalCl => .crystalLoad
  | .rdiv => if ch.val ≤ 5 then .multisynth ch.val else .rdivider67
  | .divby4 => .multisynth ch.val


/-! ## What field values mean (R61, informative: no engine rule depends on it) -/

/-- The disable-state codes of a channel, in the order of the source (R61). -/
inductive DisableState where
  | low
  | high
  | float
  | never
  deriving DecidableEq, Repr

/-- DIS_STATE codes 0 to 3 (R61). -/
def disableState (code : BitVec 2) : DisableState :=
  if code = 0 then .low else if code = 1 then .high else if code = 2 then .float else .never

/-- XTAL_CL codes 0 to 3 in pF (R61). -/
def crystalLoad (code : BitVec 2) : Nat :=
  if code = 0 then 0 else if code = 1 then 6 else if code = 2 then 8 else 10

/-- DRV codes 0 to 3 in mA (R61). -/
def driveStrength (code : BitVec 2) : Nat := 2 * code.toNat + 2

/-- A clock source that SRC or a reference select names (R61). -/
inductive ClockSource where
  | crystal
  | clkin
  | multisynth
  deriving DecidableEq, Repr

/-- SRC codes (R61); code 2 is not named. -/
def inputSource (code : BitVec 2) : Option ClockSource :=
  if code = 0 then some .crystal else if code = 1 then some .clkin else if code = 3 then some .multisynth
  else none

/-- PLLA_SRC and PLLB_SRC (R61). -/
def referenceSource (bit : Bool) : ClockSource := if bit then .clkin else .crystal

/-- CLKIN_DIV codes (R61); code 3 is not named. -/
def clkinPredivide (code : BitVec 2) : Option Nat :=
  if code = 0 then some 1 else if code = 1 then some 2 else if code = 2 then some 4 else none

/-- OEB: 0 enables the output (R61). -/
def outputEnabled (bit : Bool) : Bool := !bit

/-- PDN: 1 powers the channel down (R61). -/
def poweredDown (bit : Bool) : Bool := bit

/-- PLLSEL: 0 selects PLLA, 1 PLLB (R61). -/
def selectedPll (bit : Bool) : Pll := if bit then .b else .a

/-- INV: 1 inverts the output (R61). -/
def outputInverted (bit : Bool) : Bool := bit

/-- FANOUT_CLKIN, FANOUT_XTAL and FANOUT_MS: 1 enables (R61). -/
def fanoutEnabled (bit : Bool) : Bool := bit

/-- The PLLs a byte written to register 177 resets: bit 5 PLLA, bit 7 PLLB, 1 resets (R48, R61). -/
def resetsPll (v : Byte) (p : Pll) : Bool :=
  match p with
  | .a => v.getLsbD 5
  | .b => v.getLsbD 7

end Sys2Proof.Machine
end

