-- ==== Sys2Proof/Machine/Scripts.lean ====
section
/-! DEFINITION. The script of each command in one place, for statements about all commands. -/

namespace Sys2Proof.Machine

/-- The script a command runs in a state. -/
def script (i : Instr) (s : State) : Script :=
  match i with
  | .nop => scriptNop
  | .pllCalc => scriptPllCalc s
  | .pllCalcVcxo => scriptPllCalcVcxo s
  | .msCalc => scriptMsCalc s
  | .ms67Calc => scriptMs67Calc s
  | .rdivSel => scriptRdivSel s
  | .rdiv67Sel => scriptRdiv67Sel s
  | .packPll p => scriptPackPll p s
  | .packMs ch => scriptPackMs ch s
  | .packMs67 ch => scriptPackMs67 ch s
  | .msctlWr ch => scriptMsctlWr ch s
  | .fieldWr f ch imm => scriptFieldWr f ch imm
  | .pllRst resetA resetB => scriptPllRst resetA resetB
  | .packVcxo => scriptPackVcxo s
  | .statusRd => scriptStatusRd

end Sys2Proof.Machine
end

