-- ==== Sys2Proof/Safety.lean ====
section
/-! DEFINITION. What a safe run is, in the terms claims use: the launch premises and the end of a run (R199,
R227, R228), and the invariant every step keeps. -/

namespace Sys2Proof.Safety

open Sys2Proof.Machine

/-- The launch premise *clean*: BUSY = 0, ERRCAUSE = 0, no command in progress (R228). -/
abbrev Clean (s : State) : Prop := s.flight = none ∧ s.errCause = 0

/-- The launch premise *reset*: clean, and every register of R39 at its reset value (R228). -/
abbrev AtReset (s : State) : Prop :=
  Clean s ∧ s.regs = Regs.zero ∧ s.cmd = 0 ∧ s.errCmd = 0 ∧ s.ci = 0

/-- The launch premise *orchestrator-initial*: reset, and the host's records of the frequencies of its channels
and of the two PLLs at their initial values, which are the host's and not engine state (R228). -/
abbrev OrchestratorInitial (s : State) (channels : Channel → Int) (plls : Pll → Int) : Prop :=
  AtReset s ∧ (∀ ch, channels ch = 0) ∧ ∀ p, plls p = Config.pllNominal

/-- The command in CMD has just been accepted and has issued no transaction yet (R33). -/
abbrev Starting (s : State) : Prop := s.flight = some Flight.fresh

/-- A run has ended: the host's list is exhausted and BUSY = 0 (R227). -/
abbrev Ended (s : State) : Prop := s.host = [] ∧ s.flight = none

/-- A run from `launch` has ended with no error pending and none raised since its launch: a host clear or a
reset in between erases nothing from the log (R199). -/
abbrev EndedSafely (launch s : State) : Prop := Ended s ∧ s.errCause = 0 ∧ s.errorLog = launch.errorLog

/-- A safe run: from a clean launch state (R227, R228), in `n` steps, to a safe end. This is the premise of a
claim over a run (R199). -/
abbrev SafeRun (launch : State) (n : Nat) (s : State) : Prop :=
  Clean launch ∧ core.run n launch = .next s ∧ EndedSafely launch s

/-- What can be observed at the end of a run (R227): the engine registers, CMD, ERRCAUSE, ERRCMD and ci, and the
Register Port transactions with their results. -/
structure Observation where
  regs : Regs
  cmd : CmdWord
  errCause : BitVec 4
  errCmd : CmdWord
  ci : Nat
  trace : List Transaction
  deriving DecidableEq, Repr

/-- The observation of a state (R227). -/
def observe (s : State) : Observation := ⟨s.regs, s.cmd, s.errCause, s.errCmd, s.ci, s.trace⟩

/-- The hidden state of a command in progress is one its script reaches: the command has just been
accepted, or CMD holds a legal word, the completed transactions are the first ones of its script, and the
outstanding transaction is the one its script issues next (R38, R56). -/
def FlightFollows (s : State) (f : Flight) : Prop :=
  f = Flight.fresh ∨
    ∃ i p r, decode (fetch s) = .ok i ∧ (script i s).after f.position f.held = some p ∧
      p.request = some r ∧ f.outstanding = some r

/-- The invariant of the machine. -/
structure Inv (s : State) : Prop where
  /-- The parameters are those of a machine of this spec (R7). -/
  params_sound : s.cfg.Sound
  /-- Every engine register holds a number of W bits (R10, R20). -/
  regs_fit : ∀ r : Reg, (s.x r).toNat < 2 ^ s.cfg.width
  /-- ERRCAUSE holds one of the codes 0 to 4 (R36, R195). -/
  cause_legal : s.errCause.toNat ≤ 4
  /-- With no error pending ERRCMD is 0 (R39, R196, R199). -/
  no_error_no_word : s.errCause = 0 → s.errCmd = 0
  /-- A busy engine has no error pending (R33, R198, R200). -/
  busy_no_error : s.busy = true → s.errCause = 0
  /-- The known device bytes are in canonical form (R46). -/
  written_wf : s.written.wf
  /-- Every one of them lies in the device register space (R46, R52). -/
  written_bound : ∀ c ∈ s.written, c.1 < s.cfg.deviceSize
  /-- The hidden state of a command in progress fits its script (R38). -/
  flight_follows : ∀ f, s.flight = some f → FlightFollows s f

end Sys2Proof.Safety
end

