-- ==== Sys2Proof/Certificates/Slice0/Obligations.lean ====
section
/-! DEFINITION. The statements for the provers. Each docstring names the rule of the spec a statement
formalises. Numbers and layouts are written out here from the spec's own formulas, not taken from the model's
definitions, wherever a statement is about them. -/

open Sys2Proof Sys2Proof.Machine Sys2Proof.Safety

/-! ## Encoding (30_encoding.md) -/

/-- Every well-formed command decodes from its own word: no bit of an encoding is dropped (R70 to R77). -/
def Obligations.DecodeOfEncodeIsIdentity : Prop :=
  ∀ i : Instr, i.WellFormed → decode (encode i) = .ok i

/-- A word that decodes is the word of the command it decodes to, which is well formed: reserved and unused
bits are 0 (R75, R76) and each word has one meaning. -/
def Obligations.EncodeOfDecodeIsIdentity : Prop :=
  ∀ (w : CmdWord) (i : Instr), decode w = .ok i → i.WellFormed ∧ encode i = w

/-- R77: a word that decodes matches the row of its command, and at most one row matches any word. -/
def Obligations.DecodedWordMatchesExactlyOneRow : Prop :=
  (∀ (w : CmdWord) (i : Instr), decode w = .ok i → i.row.Matches w) ∧
  ∀ (w : CmdWord) (i j : Instr), i.row.Matches w → j.row.Matches w → i.row = j.row

/-- R79 with R71 to R77 and the FLD, CH and width columns of R156: exactly these words are legal. -/
def Obligations.LegalWordsAreThoseOfTheOpcodeMap : Prop :=
  ∀ w : CmdWord,
    let op := (w.extractLsb' 0 6).toNat
    let ch := (w.extractLsb' 6 3).toNat
    let ps := (w.extractLsb' 9 2).toNat
    let fld := (w.extractLsb' 11 5).toNat
    let imm := (w.extractLsb' 16 8).toNat
    let rsv := (w.extractLsb' 24 8).toNat
    let width := [1, 1, 1, 1, 1, 2, 2, 2, 1, 1, 2, 7, 1, 1, 1, 2, 3, 2].getD fld 0
    (∃ i, decode w = .ok i) ↔
      rsv = 0 ∧
        ((op ∈ [0x00, 0x01, 0x02, 0x03, 0x04, 0x05, 0x06, 0x0E, 0x10] ∧
            ch = 0 ∧ ps = 0 ∧ fld = 0 ∧ imm = 0) ∨
          (op = 0x08 ∧ ps ≤ 1 ∧ ch = 0 ∧ fld = 0 ∧ imm = 0) ∨
          (op = 0x09 ∧ ch ≤ 5 ∧ ps = 0 ∧ fld = 0 ∧ imm = 0) ∨
          (op = 0x0A ∧ 6 ≤ ch ∧ ps = 0 ∧ fld = 0 ∧ imm = 0) ∨
          (op = 0x0B ∧ ps = 0 ∧ fld = 0 ∧ imm = 0) ∨
          (op = 0x0C ∧ ps = 0 ∧ fld ≤ 17 ∧ imm < 2 ^ width ∧
            (fld ∈ [8, 9, 10, 12, 13, 14, 15] → ch = 0) ∧ (fld ∈ [11, 17] → ch ≤ 5)) ∨
          (op = 0x0D ∧ ps ≠ 0 ∧ ch = 0 ∧ fld = 0 ∧ imm = 0))

/-- The example encodings of R78, which the spec marks derived from R70 and R77. -/
def Obligations.ExampleEncodingsDecode : Prop :=
  decode 0x00000208 = .ok (.packPll .b) ∧
  decode 0x00000089 = .ok (.packMs 2) ∧
  decode 0x000001CA = .ok (.packMs67 7) ∧
  decode 0x0000018B = .ok (.msctlWr 6) ∧
  decode 0x0000000C = .ok (.fieldWr .oeb 0 0) ∧
  decode 0x000330CC = .ok (.fieldWr .drv 3 3) ∧
  decode 0x0000060D = .ok (.pllRst true true)

/-! ## Steps, acceptance, the host's accesses (10_state.md, 70_reset_and_hazards.md) -/

/-- While a command is in progress and no turn of the host is left before the engine's, a step is `exec` of the
command that CMD decodes to; beside it only the number of host turns is used up (R33, R38; the turns are the
model's form of R224 H2, log entry 3). -/
def Obligations.StepRunsTheAcceptedCommand : Prop :=
  ∀ (s : State) (f : Flight) (i : Instr),
    s.flight = some f → s.hostTurnsLeft = 0 → decode s.cmd = .ok i →
    step s = exec i { s with turns := s.turns.tail, turnDraws := s.turnDraws + 1 }

/-- R191, with R195's code, R196's error entry and R33's end of a command: an accepted illegal word ends at once
with ERRCAUSE = 1 and ERRCMD the word, BUSY 0 and ci one higher, and no other state of the engine changes. That the
error goes into the log of the run, and that the engine's turn is used up, is the model's choice (log entries 17
and 3). -/
def Obligations.IllegalWordRaisesIllegalCmd : Prop :=
  ∀ (s : State) (f : Flight) (e : Illegal),
    s.flight = some f → s.hostTurnsLeft = 0 → decode s.cmd = .error e →
    step s = .next
      { s with
        turns := s.turns.tail
        turnDraws := s.turnDraws + 1
        errCause := 1
        errCmd := s.cmd
        errorLog := s.errorLog ++ [⟨1, s.cmd⟩]
        flight := none
        ci := s.ci + 1 }

/-- R33: a host write to CMD is accepted, dropped under a pending error, or has no move while BUSY = 1; bits
63:32 are ignored; when a command has ended BUSY is 0 and ci is one higher. -/
def Obligations.HostWriteToCmd : Prop :=
  (∀ (s : State) (v : Word) (rest : List HostAction), s.host = .write 0x000 v :: rest →
    (s.flight = none → s.errCause = 0 →
      step s = .next
        { s with host := rest, cmd := v.extractLsb' 0 32, flight := some ⟨0, [], none⟩ }) ∧
    (s.flight = none → s.errCause ≠ 0 → step s = .next { s with host := rest }) ∧
    (∀ f, s.flight = some f → s.hostTurnsLeft ≠ 0 → step s = .refused .commandWriteWhileBusy)) ∧
  (∀ (i : Instr) (s t : State), exec i s = .next t →
    (t.busy = false ∧ t.ci = s.ci + 1) ∨ (t.busy = true ∧ t.ci = s.ci))

/-- R198: while ERRCAUSE ≠ 0 a write to CMD changes nothing, and host reads and writes of engine registers
still work. -/
def Obligations.ErrorGateDropsCommands : Prop :=
  ∀ s : State, s.flight = none → s.errCause ≠ 0 →
    (∀ v rest, s.host = .write 0x000 v :: rest → step s = .next { s with host := rest }) ∧
    (∀ (r : Reg) v rest, s.host = .write (0x080 + 8 * r.index) v :: rest →
      step s = .next
        { s with
          host := rest
          regs := s.regs.set r (BitVec.ofNat 64 (v.toNat % 2 ^ s.cfg.width)) }) ∧
    (∀ (r : Reg) rest, s.host = .read (0x080 + 8 * r.index) :: rest →
      step s = .next
        { s with
          host := rest
          hostReads := s.hostReads ++ [⟨0x080 + 8 * r.index, s.x r⟩] })

/-- R36: the first error stays recorded until the host clears it or a reset, and ERRCAUSE never holds a value
other than 0 to 4. -/
def Obligations.FirstErrorStaysRecorded : Prop :=
  ∀ s t : State, Inv s → step s = .next t →
    t.errCause.toNat ≤ 4 ∧
    (s.errCause ≠ 0 →
      (t.errCause = s.errCause ∧ t.errCmd = s.errCmd) ∨
      (∃ v rest, s.host = .write 0x010 v :: rest ∧ t.errCause = 0 ∧ t.errCmd = 0) ∨
      (∃ rest, s.host = .reset :: rest))

/-- R199: a host write of any value to ERRCAUSE sets ERRCAUSE and ERRCMD to 0 and changes nothing else. -/
def Obligations.WriteToErrcauseClears : Prop :=
  ∀ (s : State) (v : Word) (rest : List HostAction),
    s.host = .write 0x010 v :: rest → (s.busy = true → s.hostTurnsLeft ≠ 0) →
    step s = .next
      { s with
        host := rest
        errCause := 0
        errCmd := 0
        turns := if s.busy then (s.hostTurnsLeft - 1) :: s.turns.tail else s.turns }

/-- R32: what a host read of each register of the host register space returns, at any time. -/
def Obligations.HostReadsReturnCurrentValues : Prop :=
  ∀ (s : State) (offset : Nat) (value : Word) (rest : List HostAction),
    s.host = .read offset :: rest → (s.busy = true → s.hostTurnsLeft ≠ 0) →
    ((offset = 0x000 ∧ value = BitVec.ofNat 64 s.cmd.toNat) ∨
      (offset = 0x008 ∧
        value = BitVec.ofNat 64 ((if s.busy then 1 else 0) + (if s.errCause ≠ 0 then 2 else 0))) ∨
      (offset = 0x010 ∧ value = BitVec.ofNat 64 s.errCause.toNat) ∨
      (offset = 0x018 ∧ value = BitVec.ofNat 64 s.errCmd.toNat) ∨
      (∃ r : Reg, offset = 0x080 + 8 * r.index ∧ value = s.x r)) →
    step s = .next
      { s with
        host := rest
        hostReads := s.hostReads ++ [⟨offset, value⟩]
        turns := if s.busy then (s.hostTurnsLeft - 1) :: s.turns.tail else s.turns }

/-- R32, R205: a host write to STATUS or ERRCMD has no effect at any time, while BUSY = 1 too (log entry 7), and
one to an engine register while BUSY = 0 changes that register only, to the value written modulo 2^W (R10). -/
def Obligations.HostWritesOutsideCmd : Prop :=
  ∀ (s : State) (v : Word) (rest : List HostAction),
    (∀ offset, offset = 0x008 ∨ offset = 0x018 → s.host = .write offset v :: rest →
      (s.busy = true → s.hostTurnsLeft ≠ 0) →
      step s = .next
        { s with
          host := rest
          turns := if s.busy then (s.hostTurnsLeft - 1) :: s.turns.tail else s.turns }) ∧
    (∀ r : Reg, s.flight = none → s.host = .write (0x080 + 8 * r.index) v :: rest →
      ∃ t, step s = .next t ∧ t = { s with host := rest, regs := t.regs } ∧
        (t.x r).toNat = v.toNat % 2 ^ s.cfg.width ∧ ∀ q, q ≠ r → t.x q = s.x q)

/-- R224 H4 to H6: a host write to CMD or to an engine register while BUSY = 1, and a host access to a
reserved offset, have no move. -/
def Obligations.HostDutiesHaveNoMove : Prop :=
  ∀ s : State, (s.busy = true → s.hostTurnsLeft ≠ 0) →
    (∀ v rest, s.busy = true → s.host = .write 0x000 v :: rest →
      step s = .refused .commandWriteWhileBusy) ∧
    (∀ (r : Reg) v rest, s.busy = true → s.host = .write (0x080 + 8 * r.index) v :: rest →
      step s = .refused .registerWriteWhileBusy) ∧
    (∀ offset v rest, offset ∉ [0x000, 0x008, 0x010, 0x018] →
      (∀ r : Reg, offset ≠ 0x080 + 8 * r.index) →
      s.host = .write offset v :: rest ∨ s.host = .read offset :: rest →
      step s = .refused .reservedOffset)

/-- R82: HWAIT reads STATUS, and the host goes on only when it has read BUSY = 0. -/
def Obligations.WaitReadsStatusUntilIdle : Prop :=
  ∀ (s : State) (rest : List HostAction),
    s.host = .waitIdle :: rest → (s.busy = true → s.hostTurnsLeft ≠ 0) →
    ∃ t, step s = .next t ∧
      t.hostReads = s.hostReads ++
        [⟨0x008, BitVec.ofNat 64 ((if s.busy then 1 else 0) + (if s.errCause ≠ 0 then 2 else 0))⟩] ∧
      t.host = (if s.busy then s.host else rest) ∧
      t.flight = s.flight ∧ t.regs = s.regs ∧ t.trace = s.trace ∧ t.ci = s.ci

/-- The initialization poll of R182 and R218. Its two host actions and their expansion are the model's choice (log
entry 16): a round becomes a command line of STATUS_RD as R82 writes one, HWAIT and a read of STAT, and that read
ends the poll exactly when SYS_INIT is 0; otherwise another round follows. The host's turn changes nothing else
but the turns left (log entry 3). -/
def Obligations.InitializationPoll : Prop :=
  ∀ (s : State) (rest : List HostAction), (s.busy = true → s.hostTurnsLeft ≠ 0) →
    let turns := if s.busy then (s.hostTurnsLeft - 1) :: s.turns.tail else s.turns
    (s.host = .pollInit :: rest →
      step s = .next
        { s with
          host := .waitIdle :: .write 0x000 0x10 :: .waitIdle :: .pollCheck :: rest
          turns := turns }) ∧
    (s.host = .pollCheck :: rest →
      step s = .next
        { s with
          host := if (s.x .stat).toNat % 2 = 0 then rest else .pollInit :: rest
          turns := turns
          hostReads := s.hostReads ++ [⟨0x0F8, s.x .stat⟩] })

/-- R39: the reset values. -/
def Obligations.ResetValues : Prop :=
  (∀ r : Reg, State.reset.x r = 0) ∧ State.reset.cmd = 0 ∧ State.reset.busy = false ∧
  State.reset.errCause = 0 ∧ State.reset.errCmd = 0 ∧ State.reset.ci = 0 ∧ State.reset.flight = none

/-- R215, R216: a reset puts the engine in its reset state whatever it was doing, issues no transaction, and
leaves every device byte but those of the transaction it abandons, which become unknown. That an outstanding
transaction is recorded as abandoned, and that the parameters, the host's list and the records are kept, is the
model's choice (log entry 9; the record of device bytes is log entry 6, the log of errors log entry 17). -/
def Obligations.ResetInputLeavesTheDevice : Prop :=
  ∀ (s : State) (rest : List HostAction),
    s.host = .reset :: rest → (s.busy = true → s.hostTurnsLeft ≠ 0) →
    ∃ t, step s = .next t ∧ (∀ r : Reg, t.x r = 0) ∧ t.cmd = 0 ∧ t.busy = false ∧ t.errCause = 0 ∧
      t.errCmd = 0 ∧ t.ci = 0 ∧ t.host = rest ∧ t.cfg = s.cfg ∧ t.hostReads = s.hostReads ∧
      t.errorLog = s.errorLog ∧
      ((∀ f, s.flight = some f → f.outstanding = none) → t.trace = s.trace ∧ t.written = s.written) ∧
      (∀ f r, s.flight = some f → f.outstanding = some r →
        t.trace = s.trace ++ [⟨r, .abandoned⟩] ∧
        ∀ a, t.written.read a =
          if r.addr ≤ a ∧ a < r.addr + r.payload.length then none else s.written.read a)

/-! ## Results of the calculation commands (40 to 42) -/

/-- R181: NOP changes only BUSY and ci when it runs; issued to an engine that is free it changes CMD and ci, and
under a pending error it does nothing. That acceptance and execution are two steps when the host takes no turn
between them is the model's choice (log entries 3 and 4); R181 counts no steps. -/
def Obligations.NopOnlyCompletes : Prop :=
  (∀ s : State, exec .nop s = .next { s with flight := none, ci := s.ci + 1 }) ∧
  ∀ (s : State) (rest : List HostAction), s.flight = none → s.host = .write 0x000 0 :: rest →
    (∀ turns, s.errCause = 0 → s.turns = 0 :: turns →
      core.run 2 s = .next
        { s with
          host := rest
          turns := turns
          turnDraws := s.turnDraws + 1
          cmd := 0
          ci := s.ci + 1 }) ∧
    (s.errCause ≠ 0 → step s = .next { s with host := rest })

/-- R91 to R93: PLL_CALC and PLL_CALC_VCXO, every register they write, modulo 2^W (R10), and BAD_REFERENCE.
FIXED31 and the VCXO RF are what the spec takes from general knowledge (log entry 11). -/
def Obligations.PllCalcResults : Prop :=
  ∀ s : State,
    let ref : Int := (s.x .ref).toNat
    let corr : Int := ((s.x .corr).setWidth 32).toInt
    let q : Int := ref * corr
    let refc : Int :=
      match s.cfg.corrMode with
      | .exactRational =>
        ref + (if 0 ≤ q then (q + 500000000) / 1000000000 else -((-q + 500000000) / 1000000000))
      | .fixed31 => ref + (Int.tdiv (corr * 2147483648) 1000000000 * ref) / 2147483648
    let t0 : Int := max 60000000000 (min 90000000000 ((s.x .pllf).toNat : Int))
    let a : Int := t0 / refc
    let t : Int := if a < 15 then refc * 15 else if 90 < a then refc * 90 else t0
    let b : Int := t % refc * 1000000 / refc
    let c : Int := if b = 0 then 1 else 1000000
    let p1 : Int := 128 * a + 128 * b / c - 512
    let p2 : Int := 128 * b - c * (128 * b / c)
    let ovf : Bool := decide (p1 < 0 ∨ 262143 < p1 ∨ p2 < 0 ∨ 1048575 < p2 ∨ c < 0 ∨ 1048575 < c)
    let reg (v : Int) : Word := BitVec.ofInt 64 (v % 2 ^ s.cfg.width)
    let result (rf : Int) : State :=
      { s with
        regs :=
          { s.regs with
            a := reg a
            b := reg b
            c := reg c
            p1 := reg p1
            p2 := reg p2
            p3 := reg c
            rf := reg rf
            refc := reg refc
            flags := reg (if ovf then 0x09 else 0x01) }
        flight := none
        ci := s.ci + 1 }
    (refc ≤ 0 → ∀ i : Instr, i = .pllCalc ∨ i = .pllCalcVcxo →
      exec i s = .next
        { s with
          errCause := 2
          errCmd := s.cmd
          errorLog := s.errorLog ++ [⟨2, s.cmd⟩]
          flight := none
          ci := s.ci + 1 }) ∧
    (0 < refc → exec .pllCalc s = .next (result (refc * a + refc * b / c)) ∧
      exec .pllCalcVcxo s = .next (result (128 * a * 1000000 + b)))

/-- R110 to R114: MS_CALC in free and in locked mode, every register it writes, modulo 2^W (R10), and DIV_ZERO. -/
def Obligations.MsCalcResults : Prop :=
  ∀ s : State,
    let f : Nat := max 50000000 (min 22500000000 (s.x .freq).toNat)
    let pll : Nat := (s.x .pllf).toNat
    let d4 : Bool := decide (15000000000 ≤ f)
    let result (a b c rf free : Nat) : State :=
      let p1 : Int := if d4 then 0 else 128 * a + 128 * b / c - 512
      let p2 : Int := if d4 then 0 else 128 * b - c * (128 * b / c)
      let p3 : Int := if d4 then 1 else c
      let ovf : Bool :=
        decide (p1 < 0 ∨ 262143 < p1 ∨ p2 < 0 ∨ 1048575 < p2 ∨ p3 < 0 ∨ 1048575 < p3)
      let reg (v : Int) : Word := BitVec.ofInt 64 (v % 2 ^ s.cfg.width)
      { s with
        regs :=
          { s.regs with
            a := reg a
            b := reg b
            c := reg c
            p1 := reg p1
            p2 := reg p2
            p3 := reg p3
            rf := reg rf
            flags := reg (1 + (if d4 then 6 else 0) + (if ovf then 8 else 0) + 16 * free) }
        flight := none
        ci := s.ci + 1 }
    let a0 : Nat := 90000000000 / f
    let aFree : Nat := if d4 then 4 else if a0 = 5 then 4 else if a0 = 7 then 6 else a0
    let a : Nat := pll / f
    let f' : Nat := if a < 6 then pll / 6 else if 1800 < a then pll / 1800 else f
    let b : Nat := pll % f' * 1000000 / f'
    let c : Nat := if b = 0 then 1 else 1000000
    (pll = 0 → exec .msCalc s = .next (result aFree 0 1 (aFree * f) 1)) ∧
    (pll ≠ 0 → f' ≠ 0 → exec .msCalc s = .next (result a b c f' 0)) ∧
    (pll ≠ 0 → f' = 0 →
      exec .msCalc s = .next
        { s with
          errCause := 3
          errCmd := s.cmd
          errorLog := s.errorLog ++ [⟨3, s.cmd⟩]
          flight := none
          ci := s.ci + 1 })

/-- R120 to R123: MS67_CALC in free mode, in locked mode when the PLL fits, and when it does not (A, B and C
kept, RF and FLAGS 0, no error: R201). Registers are written modulo 2^W (R10). -/
def Obligations.Ms67CalcResults : Prop :=
  ∀ s : State,
    let f : Int := max 50000000 (min 15000000000 ((s.x .freq).toNat : Int))
    let pll : Int := (s.x .pllf).toNat
    let a0 : Int := (90000000000 - (s.cfg.ms67Margin : Int)) / f
    let a1 : Int :=
      if a0 % 2 = 0 then a0
      else match s.cfg.ms67Even with
        | .up => a0 + 1
        | .down => a0 - 1
    let a2 : Int := max 6 (min 254 a1)
    let a3 : Int :=
      if 90000000000 < a2 * f then a2 - 2 else if a2 * f < 60000000000 then a2 + 2 else a2
    let reg (v : Int) : Word := BitVec.ofInt 64 (v % 2 ^ s.cfg.width)
    let result (a rf flags : Int) : State :=
      { s with
        regs :=
          { s.regs with
            a := reg a
            b := 0
            c := reg 1
            rf := reg rf
            flags := reg flags }
        flight := none
        ci := s.ci + 1 }
    (pll = 0 → exec .ms67Calc s = .next (result a3 (a3 * f) (if 255 < a3 then 0x19 else 0x11))) ∧
    (pll ≠ 0 → pll % f = 0 → 6 ≤ pll / f → pll / f ≤ 254 →
      exec .ms67Calc s = .next (result (pll / f) f 0x01)) ∧
    (pll ≠ 0 → ¬ (pll % f = 0 ∧ 6 ≤ pll / f ∧ pll / f ≤ 254) →
      exec .ms67Calc s = .next
        { s with regs := { s.regs with rf := 0, flags := 0 }, flight := none, ci := s.ci + 1 })

/-- R135, R136: RDIV_SEL and RDIV67_SEL, band by band, and outside every band, where FREQ, which holds a number
of W bits, is unchanged. Registers are written modulo 2^W (R10). -/
def Obligations.RdivSelectorResults : Prop :=
  ∀ (s : State) (i : Instr) (m : Nat),
    (i = .rdivSel ∧ m = s.cfg.clkoutMin) ∨ (i = .rdiv67Sel ∧ m = s.cfg.clkout67Min) →
    let f : Nat := (s.x .freq).toNat
    (∀ j : Nat, j ≤ 6 → m * 2 ^ j ≤ f → f < m * 2 ^ (j + 1) →
      exec i s = .next
        { s with
          regs :=
            { s.regs with
              freq := BitVec.ofNat 64 (f * 2 ^ (7 - j) % 2 ^ s.cfg.width)
              rdiv := BitVec.ofNat 64 ((7 - j) % 2 ^ s.cfg.width) }
          flight := none
          ci := s.ci + 1 }) ∧
    (f < 2 ^ s.cfg.width → (∀ j : Nat, j ≤ 6 → ¬ (m * 2 ^ j ≤ f ∧ f < m * 2 ^ (j + 1))) →
      exec i s = .next
        { s with regs := { s.regs with rdiv := 0 }, flight := none, ci := s.ci + 1 })

/-! ## Results of the device commands (43, 44), the Register Port answering -/

/-- R145, R146: PACK_PLL writes the low bits of P1, P2 and P3 into the region of its PLL, bits 7:2 at +2 zero.
The byte order is what the spec takes from general knowledge (log entry 11). -/
def Obligations.PackPllResult : Prop :=
  ∀ (s : State) (p : Pll) (w : Byte), s.flight = some Flight.fresh → s.replyAt 0 = .returns w →
    let base := match p with | .a => 26 | .b => 34
    ∃ b0 b1 b2 b3 b4 b5 b6 b7 : Byte,
      exec (.packPll p) s = .next
        { s with
          flight := none
          ci := s.ci + 1
          replies := s.replies.drop 1
          draws := s.draws + 1
          trace := s.trace ++ [⟨.writeBulk base [b0, b1, b2, b3, b4, b5, b6, b7], .done⟩]
          written := s.written.writeBytes base [b0, b1, b2, b3, b4, b5, b6, b7] } ∧
      b2.toNat < 4 ∧
      b2.toNat * 65536 + b3.toNat * 256 + b4.toNat = (s.x .p1).toNat % 2 ^ 18 ∧
      b5.toNat % 16 * 65536 + b6.toNat * 256 + b7.toNat = (s.x .p2).toNat % 2 ^ 20 ∧
      b5.toNat / 16 * 65536 + b0.toNat * 256 + b1.toNat = (s.x .p3).toNat % 2 ^ 20

/-- R145, R147: PACK_MS reads the byte at +2, then writes the low bits of P1, P2 and P3 into the region of its
channel and keeps bits 7:2 of that byte. The byte order is as for PACK_PLL (log entry 11). -/
def Obligations.PackMsResult : Prop :=
  ∀ (s : State) (ch : Channel) (v w : Byte), ch.val ≤ 5 → s.flight = some Flight.fresh →
    s.replyAt 0 = .returns v → s.replyAt 1 = .returns w →
    let base := 42 + 8 * ch.val
    ∃ b0 b1 b2 b3 b4 b5 b6 b7 : Byte,
      exec (.packMs ch) s = .next
        { s with
          flight := none
          ci := s.ci + 1
          replies := s.replies.drop 2
          draws := s.draws + 2
          trace := s.trace ++ [⟨.readByte (base + 2), .byte v⟩,
            ⟨.writeBulk base [b0, b1, b2, b3, b4, b5, b6, b7], .done⟩]
          written := s.written.writeBytes base [b0, b1, b2, b3, b4, b5, b6, b7] } ∧
      b2.toNat / 4 = v.toNat / 4 ∧
      b2.toNat % 4 * 65536 + b3.toNat * 256 + b4.toNat = (s.x .p1).toNat % 2 ^ 18 ∧
      b5.toNat % 16 * 65536 + b6.toNat * 256 + b7.toNat = (s.x .p2).toNat % 2 ^ 20 ∧
      b5.toNat / 16 * 65536 + b0.toNat * 256 + b1.toNat = (s.x .p3).toNat % 2 ^ 20

/-- R148, R160, R171: the commands of one write: PACK_MS67 writes A mod 256 to 90 or 91, PLL_RST the reset
bits to 177 whole, PACK_VCXO the 22-bit VXP low byte first to 162 to 164. -/
def Obligations.SingleWriteCommandResults : Prop :=
  ∀ (s : State) (w : Byte), s.flight = some Flight.fresh → s.replyAt 0 = .returns w →
    let result (r : Request) (addr : Nat) (bytes : List Byte) : State :=
      { s with
        flight := none
        ci := s.ci + 1
        replies := s.replies.drop 1
        draws := s.draws + 1
        trace := s.trace ++ [⟨r, .done⟩]
        written := s.written.writeBytes addr bytes }
    (∀ (ch : Channel) (addr : Nat), (ch = 6 ∧ addr = 90) ∨ (ch = 7 ∧ addr = 91) →
      ∃ v : Byte, v.toNat = (s.x .a).toNat % 256 ∧
        exec (.packMs67 ch) s = .next (result (.writeByte addr v) addr [v])) ∧
    exec (.pllRst true false) s = .next (result (.writeByte 177 0x20) 177 [0x20]) ∧
    exec (.pllRst false true) s = .next (result (.writeByte 177 0x80) 177 [0x80]) ∧
    exec (.pllRst true true) s = .next (result (.writeByte 177 0xA0) 177 [0xA0]) ∧
    ∃ b0 b1 b2 : Byte,
      exec .packVcxo s = .next (result (.writeBulk 162 [b0, b1, b2]) 162 [b0, b1, b2]) ∧
      b0.toNat + 256 * b1.toNat + 65536 * b2.toNat = (s.x .vxp).toNat % 2 ^ 22

/-- R149, R150, the bit positions of R149 as log entry 11 says: MSCTL_WR, bit by bit: for channels 0-5 the
R-divider code and the divide-by-4 bits of the byte at +2, then the integer-mode bit of the channel control
byte; for channels 6 and 7 the code in byte 92; every other bit as read. -/
def Obligations.MsctlWrResult : Prop :=
  ∀ (s : State) (ch : Channel) (v w u z : Byte), s.flight = some Flight.fresh →
    s.replyAt 0 = .returns v → s.replyAt 1 = .returns w →
    let addr := 42 + 8 * ch.val + 2
    (ch.val ≤ 5 → s.replyAt 2 = .returns u → s.replyAt 3 = .returns z →
      ∃ v' u' : Byte,
        exec (.msctlWr ch) s = .next
          { s with
            flight := none
            ci := s.ci + 1
            replies := s.replies.drop 4
            draws := s.draws + 4
            trace := s.trace ++ [⟨.readByte addr, .byte v⟩, ⟨.writeByte addr v', .done⟩,
              ⟨.readByte (16 + ch.val), .byte u⟩, ⟨.writeByte (16 + ch.val) u', .done⟩]
            written := (s.written.writeBytes addr [v']).writeBytes (16 + ch.val) [u'] } ∧
        (∀ j < 8, v'.getLsbD j =
          if 4 ≤ j ∧ j ≤ 6 then (s.x .rdiv).getLsbD (j - 4)
          else if 2 ≤ j ∧ j ≤ 3 then (s.x .flags).getLsbD 1 else v.getLsbD j) ∧
        (∀ j < 8, u'.getLsbD j = if j = 6 then (s.x .flags).getLsbD 2 else u.getLsbD j)) ∧
    (6 ≤ ch.val →
      ∃ v' : Byte,
        exec (.msctlWr ch) s = .next
          { s with
            flight := none
            ci := s.ci + 1
            replies := s.replies.drop 2
            draws := s.draws + 2
            trace := s.trace ++ [⟨.readByte 92, .byte v⟩, ⟨.writeByte 92 v', .done⟩]
            written := s.written.writeBytes 92 [v'] } ∧
        ∀ j < 8, v'.getLsbD j =
          if (if ch = 6 then 0 else 4) ≤ j ∧ j < (if ch = 6 then 3 else 7) then
            (s.x .rdiv).getLsbD (j - (if ch = 6 then 0 else 4))
          else v.getLsbD j)

/-- R155 to R157: FIELD_WR reads the byte of its field, then writes it back with the immediate in the field's
bits and every other bit as read. Address, lowest bit and width are R156's table, written out. -/
def Obligations.FieldWrResult : Prop :=
  ∀ (s : State) (f : Field) (ch : Channel) (imm v w : Byte),
    (Instr.fieldWr f ch imm).WellFormed → s.flight = some Flight.fresh →
    s.replyAt 0 = .returns v → s.replyAt 1 = .returns w →
    let n := ch.val
    let row : Nat × Nat × Nat :=
      match f with
      | .oeb => (3, n, 1)
      | .pdn => (16 + n, 7, 1)
      | .int => (16 + n, 6, 1)
      | .pllsel => (16 + n, 5, 1)
      | .inv => (16 + n, 4, 1)
      | .src => (16 + n, 2, 2)
      | .drv => (16 + n, 0, 2)
      | .disState => if n < 4 then (24, 2 * n, 2) else (25, 2 * (n - 4), 2)
      | .pllaSrc => (15, 2, 1)
      | .pllbSrc => (15, 3, 1)
      | .clkinDiv => (15, 6, 2)
      | .phase => (165 + n, 0, 7)
      | .fanoutClkin => (187, 7, 1)
      | .fanoutXtal => (187, 6, 1)
      | .fanoutMs => (187, 4, 1)
      | .xtalCl => (183, 6, 2)
      | .rdiv => if n ≤ 5 then (42 + 8 * n + 2, 4, 3) else if n = 6 then (92, 0, 3) else (92, 4, 3)
      | .divby4 => (42 + 8 * n + 2, 2, 2)
    let addr := row.1
    let lsb := row.2.1
    let width := row.2.2
    ∃ v' : Byte,
      exec (.fieldWr f ch imm) s = .next
        { s with
          flight := none
          ci := s.ci + 1
          replies := s.replies.drop 2
          draws := s.draws + 2
          trace := s.trace ++ [⟨.readByte addr, .byte v⟩, ⟨.writeByte addr v', .done⟩]
          written := s.written.writeBytes addr [v'] } ∧
      ∀ j < 8, v'.getLsbD j =
        if lsb ≤ j ∧ j < lsb + width then imm.getLsbD (j - lsb) else v.getLsbD j

/-- R31, R180: STATUS_RD reads registers 0 and 1 in this order and writes STAT, field by field, where the
registers are wide enough for the layout of R31. -/
def Obligations.StatusRdResult : Prop :=
  ∀ (s : State) (s0 s1 : Byte), s.flight = some Flight.fresh → 32 ≤ s.cfg.width →
    s.replyAt 0 = .returns s0 → s.replyAt 1 = .returns s1 →
    ∃ st : Word,
      exec .statusRd s = .next
        { s with
          regs := { s.regs with stat := st }
          flight := none
          ci := s.ci + 1
          replies := s.replies.drop 2
          draws := s.draws + 2
          trace := s.trace ++ [⟨.readByte 0, .byte s0⟩, ⟨.readByte 1, .byte s1⟩] } ∧
      st.extractLsb' 0 1 = s0.extractLsb' 7 1 ∧ st.extractLsb' 1 1 = s0.extractLsb' 6 1 ∧
      st.extractLsb' 2 1 = s0.extractLsb' 5 1 ∧ st.extractLsb' 3 1 = s0.extractLsb' 4 1 ∧
      st.extractLsb' 4 2 = s0.extractLsb' 0 2 ∧ st.extractLsb' 6 2 = 0 ∧
      st.extractLsb' 8 1 = s1.extractLsb' 7 1 ∧ st.extractLsb' 9 1 = s1.extractLsb' 6 1 ∧
      st.extractLsb' 10 1 = s1.extractLsb' 5 1 ∧ st.extractLsb' 11 1 = s1.extractLsb' 4 1 ∧
      st.extractLsb' 12 4 = 0 ∧ st.extractLsb' 16 8 = s0 ∧ st.extractLsb' 24 8 = s1 ∧
      st.extractLsb' 32 32 = 0

/-- A command whose operands its row does not admit raises ILLEGAL_CMD with no other effect. No word decodes to
such a command: that its meaning answers so is the model's choice, in agreement with R79 (log entry 10). -/
def Obligations.IllFormedCommandsRaiseIllegalCmd : Prop :=
  ∀ (s : State) (i : Instr), ¬ i.WellFormed → s.flight = some Flight.fresh →
    exec i s = .next
      { s with
        errCause := 1
        errCmd := s.cmd
        errorLog := s.errorLog ++ [⟨1, s.cmd⟩]
        flight := none
        ci := s.ci + 1 }

/-! ## Errors, frames and order over all commands (20, 60) -/

/-- R192 with R55 and R196: where a transaction of a command fails, it is the command's last, ERRCAUSE is 4,
ERRCMD the word, and no engine register is written. Of the device, the bytes a failed write targets are unknown;
every other byte is what the completed transactions before it left, so what they wrote stays written, and a failed
read, which targets no byte to write, changes none.

And a failure is not passed over: when the port answers a just accepted command's first transactions and fails the
next of those R225 lists for it, the command ends so. The record then holds those transactions, completed with the
port's answers, and the failed one, the device bytes are as said, and nothing else changes. The log of errors is
the model's choice (log entry 17), and so is the record of device bytes (log entry 6). -/
def Obligations.FailedTransactionEndsTheCommand : Prop :=
  -- what is known of the device once these transactions have completed
  let stored (m : Memory) (done : List Transaction) : Memory :=
    done.foldl (fun m x => m.writeBytes x.request.addr x.request.payload) m
  (∀ (i : Instr) (s t : State) (done : List Transaction) (r : Request) (later : List Transaction),
    exec i s = .next t → t.trace = s.trace ++ done ++ ⟨r, .failed⟩ :: later →
    later = [] ∧ (∀ x ∈ done, x.outcome ≠ .failed) ∧
    t.errCause = 4 ∧ t.errCmd = s.cmd ∧ t.busy = false ∧ t.ci = s.ci + 1 ∧ t.regs = s.regs ∧
    ∀ a, t.written.read a =
      if r.addr ≤ a ∧ a < r.addr + r.payload.length then none else (stored s.written done).read a) ∧
  ∀ (i : Instr) (s : State) (k addr n : Nat), i.WellFormed → s.flight = some Flight.fresh →
    -- the transactions of R225 in order: the address, and how many bytes are written there (0 for a read)
    let plan : List (Nat × Nat) :=
      match i with
      | .nop | .pllCalc | .pllCalcVcxo | .msCalc | .ms67Calc | .rdivSel | .rdiv67Sel => []
      | .packPll p => [(match p with | .a => 26 | .b => 34, 8)]
      | .packMs ch => [(42 + 8 * ch.val + 2, 0), (42 + 8 * ch.val, 8)]
      | .packMs67 ch => [(if ch = 6 then 90 else 91, 1)]
      | .msctlWr ch =>
        if ch.val ≤ 5 then
          [(42 + 8 * ch.val + 2, 0), (42 + 8 * ch.val + 2, 1), (16 + ch.val, 0), (16 + ch.val, 1)]
        else [(92, 0), (92, 1)]
      | .fieldWr f ch _ => [((fieldTable f ch).addr, 0), ((fieldTable f ch).addr, 1)]
      | .pllRst _ _ => [(177, 1)]
      | .packVcxo => [(162, 3)]
      | .statusRd => [(0, 0), (1, 0)]
    plan[k]? = some (addr, n) → (∀ j < k, ∃ b, s.replyAt j = .returns b) → s.replyAt k = .fails →
    ∃ t done r,
      exec i s = .next t ∧ done.length = k ∧
      done.map (fun x => (x.request.addr, x.request.payload.length)) = plan.take k ∧
      (∀ j x, done[j]? = some x → ∃ b, s.replyAt j = .returns b ∧
        x.outcome = if x.request.payload = [] then .byte b else .done) ∧
      r.addr = addr ∧ r.payload.length = n ∧
      t = { s with
        flight := none
        ci := s.ci + 1
        errCause := 4
        errCmd := s.cmd
        errorLog := s.errorLog ++ [⟨4, s.cmd⟩]
        replies := s.replies.drop (k + 1)
        draws := s.draws + (k + 1)
        trace := s.trace ++ done ++ [⟨r, .failed⟩]
        written := (stored s.written done).forgetRange addr n } ∧
      (∀ a, addr ≤ a → a < addr + n → t.written.read a = none) ∧
      (s.written.wf →
        (∀ x ∈ done, ∀ j b, x.request.payload[j]? = some b →
          t.written.read (x.request.addr + j) = some b) ∧
        ∀ a, ¬ (addr ≤ a ∧ a < addr + n) →
          (∀ x ∈ done, ¬ (x.request.addr ≤ a ∧ a < x.request.addr + x.request.payload.length)) →
          t.written.read a = s.written.read a)

/-- R195 with R197, which the spec marks derived: from a state with no error pending, a well-formed command
ends with no error or with the one cause its row of R195 admits. -/
def Obligations.EachCommandRaisesOnlyItsCause : Prop :=
  ∀ (i : Instr) (s t : State), s.errCause = 0 → i.WellFormed → exec i s = .next t →
    t.errCause ∈
      (match i with
        | .nop | .ms67Calc | .rdivSel | .rdiv67Sel => ([0] : List (BitVec 4))
        | .pllCalc | .pllCalcVcxo => [0, 2]
        | .msCalc => [0, 3]
        | .packPll _ | .packMs _ | .packMs67 _ | .msctlWr _ | .fieldWr _ _ _ | .pllRst _ _ | .packVcxo
        | .statusRd => [0, 4])

/-- R196: a command that ends in an error writes no engine register and records its word. -/
def Obligations.ErrorWritesNoEngineRegister : Prop :=
  ∀ (i : Instr) (s t : State), s.errCause = 0 → exec i s = .next t → t.errCause ≠ 0 →
    t.regs = s.regs ∧ t.errCmd = s.cmd ∧ t.flight = none ∧ t.ci = s.ci + 1

/-- R20, R30: the frame of every command: only the engine registers the index map names for it are written
(FLAGS by the four calculations only), and CMD, the parameters, the host's list and reads and the turns of the
agents are unchanged. -/
def Obligations.OnlyListedRegistersAreWritten : Prop :=
  ∀ (i : Instr) (s t : State), exec i s = .next t →
    (∀ r : Reg,
      r ∉ (match i with
        | .pllCalc | .pllCalcVcxo => ([.a, .b, .c, .p1, .p2, .p3, .rf, .refc, .flags] : List Reg)
        | .msCalc => [.a, .b, .c, .p1, .p2, .p3, .rf, .flags]
        | .ms67Calc => [.a, .b, .c, .rf, .flags]
        | .rdivSel | .rdiv67Sel => [.freq, .rdiv]
        | .statusRd => [.stat]
        | .nop | .packPll _ | .packMs _ | .packMs67 _ | .msctlWr _ | .fieldWr _ _ _ | .pllRst _ _
        | .packVcxo => []) →
      t.x r = s.x r) ∧
    t.cmd = s.cmd ∧ t.cfg = s.cfg ∧ t.host = s.host ∧ t.turns = s.turns ∧
    t.turnDraws = s.turnDraws ∧ t.hostReads = s.hostReads

/-- The device addresses and accesses of each command in R49's table, which the spec marks derived: the
transactions a command adds to the record, completed or failed, are these reads and writes and no others. And
R46, R52: each of them lies in the 2^DEV_ADDR_BITS addresses of the device register space. -/
def Obligations.CommandsReachOnlyTheirAddresses : Prop :=
  (∀ (i : Instr) (s t : State) (new : List Transaction),
    i.WellFormed → s.cfg.Sound → exec i s = .next t → t.trace = s.trace ++ new → ∀ x ∈ new,
    x.request.addr < 2 ^ s.cfg.devAddrBits ∧
      x.request.addr + x.request.payload.length ≤ 2 ^ s.cfg.devAddrBits) ∧
  ∀ (i : Instr) (s t : State) (new : List Transaction), i.WellFormed → exec i s = .next t →
    t.trace = s.trace ++ new → ∀ x ∈ new,
    match i with
    | .nop | .pllCalc | .pllCalcVcxo | .msCalc | .ms67Calc | .rdivSel | .rdiv67Sel => False
    | .packPll p =>
      ∃ bs, bs.length = 8 ∧ x.request = .writeBulk (match p with | .a => 26 | .b => 34) bs
    | .packMs ch =>
      x.request = .readByte (42 + 8 * ch.val + 2) ∨
        ∃ bs, bs.length = 8 ∧ x.request = .writeBulk (42 + 8 * ch.val) bs
    | .packMs67 ch => ∃ v, x.request = .writeByte (if ch = 6 then 90 else 91) v
    | .msctlWr ch =>
      ∃ a ∈ (if ch.val ≤ 5 then [42 + 8 * ch.val + 2, 16 + ch.val] else [92]),
        x.request = .readByte a ∨ ∃ v, x.request = .writeByte a v
    | .fieldWr f ch _ =>
      ∃ a ∈ (match f with
          | .oeb => [3]
          | .pdn | .int | .pllsel | .inv | .src | .drv => [16 + ch.val]
          | .disState => [if ch.val ≤ 3 then 24 else 25]
          | .pllaSrc | .pllbSrc | .clkinDiv => [15]
          | .phase => [165 + ch.val]
          | .fanoutClkin | .fanoutXtal | .fanoutMs => [187]
          | .xtalCl => [183]
          | .rdiv => [if ch.val ≤ 5 then 42 + 8 * ch.val + 2 else 92]
          | .divby4 => [42 + 8 * ch.val + 2]),
        x.request = .readByte a ∨ ∃ v, x.request = .writeByte a v
    | .pllRst _ _ => ∃ v, x.request = .writeByte 177 v
    | .packVcxo => ∃ bs, bs.length = 3 ∧ x.request = .writeBulk 162 bs
    | .statusRd => x.request = .readByte 0 ∨ x.request = .readByte 1

/-- The memory frame of every command (R49, R53, R55): a device byte keeps what is known of it unless it lies
in the bytes the command stores to; a command that stores nothing keeps them all. -/
def Obligations.OnlyStoredBytesChange : Prop :=
  ∀ (i : Instr) (s t : State) (a : Nat), i.WellFormed → s.written.wf → exec i s = .next t →
    (match i with
      | .nop | .pllCalc | .pllCalcVcxo | .msCalc | .ms67Calc | .rdivSel | .rdiv67Sel | .statusRd => True
      | .packPll p => a < pllBase p ∨ pllBase p + 8 ≤ a
      | .packMs ch => a < msBase ch ∨ msBase ch + 8 ≤ a
      | .packMs67 ch => a ≠ 90 + (ch.val - 6)
      | .msctlWr ch => if ch.val ≤ 5 then a ≠ ctlByteAddr ch ∧ a ≠ 16 + ch.val else a ≠ 92
      | .fieldWr f ch _ => a ≠ (fieldTable f ch).addr
      | .pllRst _ _ => a ≠ 177
      | .packVcxo => a < 162 ∨ 165 ≤ a) →
    t.written.read a = s.written.read a

/-- A completed write leaves its bytes known (the record of log entry 6, kept as R55 says), for every command
and every reply: the byte known at an address a command's last transaction wrote is the byte that transaction
carried. -/
def Obligations.CompletedWriteIsKnown : Prop :=
  ∀ (i : Instr) (s t : State) (before : List Transaction) (r : Request) (k : Nat) (b : Byte),
    s.written.wf → exec i s = .next t → t.trace = s.trace ++ before ++ [⟨r, .done⟩] →
    r.payload[k]? = some b → t.written.read (r.addr + k) = some b

/-- R225, which the spec marks derived: a command just accepted issues at most four transactions; when every
one of them returns it completes. And it comes to its end: from any point of a command in progress, if the
port returns whenever it is called, the command ends within the turns the host has left and one turn of the
engine (log entry 3), unless the host breaks one of its duties first; a host that waits for BUSY = 0, or does
nothing, sees it end there and counted. -/
def Obligations.AnsweredCommandCompletes : Prop :=
  (∀ (i : Instr) (s : State), s.flight = some Flight.fresh →
    ∃ t new, exec i s = .next t ∧ t.trace = s.trace ++ new ∧ new.length ≤ 4 ∧
      ((∀ k < 4, ∃ b, s.replyAt k = .returns b) →
        t.busy = false ∧ t.ci = s.ci + 1 ∧ ∀ x ∈ new, x.outcome ≠ .failed)) ∧
  ∀ s : State, s.busy = true → (∀ k < 4, ∃ b, s.replyAt k = .returns b) →
    ((∃ r, core.run (s.hostTurnsLeft + 1) s = .refused r) ∨
      ∃ m ≤ s.hostTurnsLeft + 1, ∃ t, core.run m s = .next t ∧ t.flight = none) ∧
    (s.host = [] ∨ (∃ rest, s.host = .waitIdle :: rest) →
      ∃ t, core.run (s.hostTurnsLeft + 1) s = .next t ∧ t.flight = none ∧ t.ci = s.ci + 1 ∧
        t.host = s.host)

/-- R172, which the spec marks derived: the transactions of a command are a function of the command, the
engine registers, the parameters and the replies; nothing else in the state, earlier commands included,
changes them. -/
def Obligations.TransactionsDependOnRegistersAndReplies : Prop :=
  ∀ (i : Instr) (s₁ s₂ t₁ t₂ : State),
    s₁.regs = s₂.regs → s₁.cfg = s₂.cfg → s₁.flight = s₂.flight →
    (∀ k, s₁.replyAt k = s₂.replyAt k) → exec i s₁ = .next t₁ → exec i s₂ = .next t₂ →
    (∃ new, t₁.trace = s₁.trace ++ new ∧ t₂.trace = s₂.trace ++ new) ∧ t₁.regs = t₂.regs ∧
      t₁.flight = t₂.flight

/-- R35: a command whose Register Port call does not return keeps BUSY = 1, with nothing done, however many
steps pass meanwhile (at most one reply is drawn in each); the host may read, as long as it does not reset the
engine. -/
def Obligations.UnansweredCallKeepsBusy : Prop :=
  ∀ (s t : State) (i : Instr) (n : Nat),
    s.flight = some Flight.fresh → decode s.cmd = .ok i →
    i ∉ [.nop, .pllCalc, .pllCalcVcxo, .msCalc, .ms67Calc, .rdivSel, .rdiv67Sel] →
    (∀ k < n, s.replyAt k = .silent) → .reset ∉ s.host → core.run n s = .next t →
    t.busy = true ∧ t.trace = s.trace ∧ t.written = s.written ∧ t.regs = s.regs ∧ t.ci = s.ci

/-- Waiting changes nothing (the model's form of R38 and R47, log entries 4 and 13). A command whose reply
comes only after a silent one goes on, at the engine's next turn, exactly as if the reply had come at once. -/
def Obligations.WaitingCommandGoesOnWhereItStood : Prop :=
  ∀ (i : Instr) (s t : State) (pre post : List Reply),
    s.flight = some Flight.fresh → (∀ r ∈ pre, ∃ b, r = .returns b) →
    s.replies = pre ++ .silent :: post → exec i s = .next t → t.busy = true →
    exec i t = exec i { s with replies := pre ++ post, draws := s.draws + 1 }

/-! ## Whole-machine rules -/

/-- R34: ci goes up by one exactly when a command in progress ends, and otherwise changes only by a reset. -/
def Obligations.CommandIndexCountsCompletions : Prop :=
  ∀ s t : State, step s = .next t →
    (t.ci = s.ci ∧ (s.busy = true → t.busy = true)) ∨
      (t.ci = s.ci + 1 ∧ s.busy = true ∧ t.busy = false) ∨
      (t.ci = 0 ∧ ∃ rest, s.host = .reset :: rest)

/-- R59, R219: while a command stays in progress no step changes CMD or an engine register. -/
def Obligations.RegistersStandStillWhileBusy : Prop :=
  ∀ s t : State, step s = .next t → s.busy = true → t.busy = true →
    t.cmd = s.cmd ∧ t.regs = s.regs

/-- The parameters of a machine never change, and the records of transactions, of host reads and of errors only
grow, a reset included. The field that holds the parameters of R7 is log entry 5, and the three records are the
model's own (log entries 15 and 17), in agreement with R56, R199 and R227. -/
def Obligations.ParametersFixedAndRecordsGrow : Prop :=
  ∀ s t : State, step s = .next t →
    t.cfg = s.cfg ∧ (∃ new, t.trace = s.trace ++ new) ∧
      (∃ reads, t.hostReads = s.hostReads ++ reads) ∧ ∃ errors, t.errorLog = s.errorLog ++ errors

/-- The invariant holds after reset. -/
def Obligations.InvariantHoldsAtReset : Prop := Inv State.reset

/-- Every step keeps the invariant: registers of W bits (R10, R20), legal ERRCAUSE (R36), no error while busy
(R198, R200), canonical device bytes inside the device register space (R46, R52), and hidden state that fits the
command's script (R38, R56). -/
def Obligations.StepKeepsInvariant : Prop :=
  ∀ s t : State, Inv s → step s = .next t → Inv t

/-! ## Properties of the calculations -/

/-- R12: RoundHalfAway is the nearest integer, halves away from zero. -/
def Obligations.RoundHalfAwayIsNearest : Prop :=
  ∀ n d : Int, 0 < d →
    let r := roundHalfAway n d
    2 * (r * d - n) ≤ d ∧ 2 * (n - r * d) ≤ d ∧
      (2 * (n - r * d) = d → n < 0) ∧ (2 * (r * d - n) = d → 0 ≤ n)

/-- R92's corner cases, which the spec marks derived: a divider in [15, 90] gives an RF within refc/10^6 + 1
below the clamped target; a divider outside it is kept, with B = 0, C = 1 and RF = refc·a. -/
def Obligations.PllCalcAccuracy : Prop :=
  ∀ target refc : Int, 0 < refc →
    let t : Int := max 60000000000 (min 90000000000 target)
    let r := pllDivider target refc
    r.a = t / refc ∧
    (15 ≤ r.a → r.a ≤ 90 → 0 ≤ t - r.rf ∧ 1000000 * (t - r.rf) < refc + 1000000) ∧
    (r.a < 15 ∨ 90 < r.a → r.b = 0 ∧ r.c = 1 ∧ r.rf = refc * r.a)

/-- R94, which the spec marks derived: the results of a PLL calculation depend on PLLF, REF, CORR[31:0] and
CORR_MODE only (at one register width W). -/
def Obligations.PllCalcIsAFunctionOfItsOperands : Prop :=
  ∀ (i : Instr) (s₁ s₂ : State), i = .pllCalc ∨ i = .pllCalcVcxo →
    s₁.x .pllf = s₂.x .pllf → s₁.x .ref = s₂.x .ref →
    (s₁.x .corr).extractLsb' 0 32 = (s₂.x .corr).extractLsb' 0 32 →
    s₁.cfg.corrMode = s₂.cfg.corrMode → s₁.cfg.width = s₂.cfg.width →
    ∃ t₁ t₂, exec i s₁ = .next t₁ ∧ exec i s₂ = .next t₂ ∧
      ((∀ r ∈ [Reg.a, .b, .c, .p1, .p2, .p3, .rf, .refc, .flags], t₁.x r = t₂.x r) ∨
        (t₁.errCause = 2 ∧ t₂.errCause = 2 ∧ t₁.regs = s₁.regs ∧ t₂.regs = s₂.regs))

/-- R95, which the spec marks derived: under CORR_MODE = EXACT, going from 0 to +1000 ppb at the same PLLF and
REF moves REFC by RoundHalfAway(REF·1000/10^9), which is REF/10^6 when 10^6 divides REF (W = 64, REF below
2^61, where every result fits). -/
def Obligations.CorrectionShiftsReferenceExactly : Prop :=
  ∀ s₁ s₂ t₁ t₂ : State,
    s₁.cfg.corrMode = .exactRational → s₂.cfg.corrMode = .exactRational →
    s₁.x .pllf = s₂.x .pllf → s₁.x .ref = s₂.x .ref → s₁.x .corr = 0 → s₂.x .corr = 1000 →
    s₁.cfg.width = 64 → s₂.cfg.width = 64 → 0 < (s₁.x .ref).toNat → (s₁.x .ref).toNat < 2 ^ 61 →
    exec .pllCalc s₁ = .next t₁ → exec .pllCalc s₂ = .next t₂ →
    (t₂.x .refc).toNat =
        (t₁.x .refc).toNat + ((s₁.x .ref).toNat * 1000 + 500000000) / 1000000000 ∧
      (1000000 ∣ (s₁.x .ref).toNat →
        (t₂.x .refc).toNat = (t₁.x .refc).toNat + (s₁.x .ref).toNat / 1000000)

/-- R111's consequences, which the spec marks derived: free mode keeps A in {4} ∪ [6, 1800], A = 4 exactly
under divide-by-4, B = 0, C = 1, and RF in the VCO range (37 register bits hold that range). -/
def Obligations.MsFreeModeStaysInRange : Prop :=
  ∀ s : State, 37 ≤ s.cfg.width → s.x .pllf = 0 →
    ∃ t, exec .msCalc s = .next t ∧
      ((t.x .a).toNat = 4 ∨ (6 ≤ (t.x .a).toNat ∧ (t.x .a).toNat ≤ 1800)) ∧
      ((t.x .a).toNat = 4 ↔ (t.x .flags).getLsbD 1 = true) ∧
      t.x .b = 0 ∧ t.x .c = 1 ∧ t.x .p2 = 0 ∧ t.x .p3 = 1 ∧
      60000000000 ≤ (t.x .rf).toNat ∧ (t.x .rf).toNat ≤ 90000000000

/-- R112 with R115's bound, which the spec marks derived: in locked mode with a quotient in [6, 1800], A is
that quotient, RF the entry-clamped frequency f, and with D = A + B/10^6, 0 ≤ PLLF/D - f < f/(10^6·D); both
sides are multiplied out by 10^6·D (35 register bits hold every f). -/
def Obligations.MsLockedModeAccuracy : Prop :=
  ∀ s : State,
    let f := max 50000000 (min 22500000000 (s.x .freq).toNat)
    let pll := (s.x .pllf).toNat
    35 ≤ s.cfg.width → 6 ≤ pll / f → pll / f ≤ 1800 →
    ∃ t, exec .msCalc s = .next t ∧
      let a := (t.x .a).toNat
      let b := (t.x .b).toNat
      a = pll / f ∧ b < 1000000 ∧ (t.x .rf).toNat = f ∧
      f * (a * 1000000 + b) ≤ pll * 1000000 ∧ pll * 1000000 < f * (a * 1000000 + b) + f

/-- R194, its second half marked derived by the spec: DIV_ZERO is raised by MS_CALC with 0 < PLLF < 6, and by
no other command and in no other case. -/
def Obligations.DivZeroExactlyBelowSix : Prop :=
  ∀ (i : Instr) (s t : State), s.errCause = 0 → exec i s = .next t →
    (t.errCause = 3 ↔ i = .msCalc ∧ 0 < (s.x .pllf).toNat ∧ (s.x .pllf).toNat < 6)

/-- R193 with R92's cases, which the spec marks derived: only the two PLL commands raise BAD_REFERENCE, and
both do when REF is 0 or the correction is -1,000,000,000 ppb or lower, in either CORR_MODE. -/
def Obligations.BadReferenceCases : Prop :=
  ∀ (i : Instr) (s t : State), s.errCause = 0 → exec i s = .next t →
    (t.errCause = 2 → i = .pllCalc ∨ i = .pllCalcVcxo) ∧
    (i = .pllCalc ∨ i = .pllCalcVcxo →
      s.x .ref = 0 ∨ ((s.x .corr).setWidth 32).toInt ≤ -1000000000 → t.errCause = 2)

/-- R121's consequences, which the spec marks derived: free-mode MS67_CALC gives an even A in [6, 256], and
OVF exactly for A = 256, whatever the margin and the rounding parameter (nine register bits hold every such
A). -/
def Obligations.Ms67FreeModeIsEvenAndBounded : Prop :=
  ∀ s : State, 9 ≤ s.cfg.width → s.x .pllf = 0 →
    ∃ t, exec .ms67Calc s = .next t ∧ (t.x .a).toNat % 2 = 0 ∧ 6 ≤ (t.x .a).toNat ∧
      (t.x .a).toNat ≤ 256 ∧ ((t.x .flags).getLsbD 3 = true ↔ (t.x .a).toNat = 256)

/-- R135's corner case and R221, which the spec marks derived: after RDIV_SEL, FREQ lies outside every band of
CLKOUT_MIN, so a second RDIV_SEL leaves it alone and loses the code; and the same for RDIV67_SEL twice with
CLKOUT67_MIN. Nothing is said of one selector after the other. FREQ is a number of W bits (the invariant), and
the greatest product fits the register. -/
def Obligations.SecondRdivSelLosesTheCode : Prop :=
  ∀ (i : Instr) (s t : State) (m : Nat),
    (i = .rdivSel ∧ m = s.cfg.clkoutMin) ∨ (i = .rdiv67Sel ∧ m = s.cfg.clkout67Min) →
    s.cfg.Sound → (s.x .freq).toNat < 2 ^ s.cfg.width → 256 * m ≤ 2 ^ s.cfg.width → exec i s = .next t →
    ((t.x .freq).toNat < m ∨ 128 * m ≤ (t.x .freq).toNat) ∧
    ∃ u, exec i t = .next u ∧ u.x .freq = t.x .freq ∧ u.x .rdiv = 0

/-- R138, which the spec marks derived: with CLKOUT_MIN at its default the scaled frequency of a band passes
MS_CALC's entry clamp (27 register bits hold it). -/
def Obligations.ScaledFrequencyPassesTheClamp : Prop :=
  ∀ s t : State, s.cfg.clkoutMin = 400000 → 27 ≤ s.cfg.width → exec .rdivSel s = .next t →
    400000 ≤ (s.x .freq).toNat → (s.x .freq).toNat < 51200000 →
    51200000 ≤ (t.x .freq).toNat ∧ (t.x .freq).toNat < 102400000 ∧
      (t.x .freq).toNat = (s.x .freq).toNat * 2 ^ (t.x .rdiv).toNat ∧
      1 ≤ (t.x .rdiv).toNat ∧ (t.x .rdiv).toNat ≤ 7

/-! ## The device register map (20_memory.md) -/

/-- R48 against R156: every control field lies in the device register the map names for it, inside one
byte. -/
def Obligations.ControlFieldsLieInTheirRegisters : Prop :=
  ∀ (f : Field) (ch : Channel), (fieldTable f ch).legal = true →
    deviceRegion (fieldTable f ch).addr = some (fieldRegion f ch) ∧
      (fieldTable f ch).lsb + (fieldTable f ch).width ≤ 8

/-- R156: no two control fields share a bit of the device. -/
def Obligations.ControlFieldsDoNotOverlap : Prop :=
  ∀ (f g : Field) (c d : Channel), (fieldTable f c).legal = true → (fieldTable g d).legal = true →
    (fieldTable f c).addr = (fieldTable g d).addr → (f, c) ≠ (g, d) →
    (fieldTable f c).lsb + (fieldTable f c).width ≤ (fieldTable g d).lsb ∨
      (fieldTable g d).lsb + (fieldTable g d).width ≤ (fieldTable f c).lsb

/-! ## Safe runs (60_exceptions.md) -/

/-- R199: every error a command raises goes into the log of the run, where no host clear and no reset erases it
(log entry 17), and nothing else goes in; so a run with a safe end raised no error at any point, whatever the host
cleared on the way. -/
def Obligations.SafeRunRaisedNoError : Prop :=
  (∀ s t : State, step s = .next t →
    (t.errorLog = s.errorLog ∧ (t.errCause = s.errCause ∨ t.errCause = 0)) ∨
      (s.busy = true ∧ t.busy = false ∧ t.errCause ≠ 0 ∧ t.errCmd = s.cmd ∧
        t.errorLog = s.errorLog ++ [⟨t.errCause, s.cmd⟩])) ∧
  ∀ (launch t : State) (n : Nat), SafeRun launch n t →
    ∀ m ≤ n, ∃ u, core.run m launch = .next u ∧ u.errCause = 0 ∧ u.errorLog = launch.errorLog
end

