-- ==== Sys2Proof/Laws/Calc.lean ====
section
/-! SUPPORT. The shared helpers of the calculations, each in the form arithmetic proofs use: clamp (R9),
RoundHalfAway (R12), FieldsOvf (R12), the FLAGS word (R30), EncodeFields (R12) and the R-divider code (R135). -/

namespace Sys2Proof.Machine

theorem clamp_eq_max_min (v lo hi : Int) (h : lo ≤ hi) : clamp v lo hi = max lo (min hi v) := by
  unfold clamp; split <;> [skip; split] <;> omega

theorem clamp_mem (v lo hi : Int) (h : lo ≤ hi) : lo ≤ clamp v lo hi ∧ clamp v lo hi ≤ hi := by
  rw [clamp_eq_max_min v lo hi h]; omega

theorem roundHalfAway_ppb (q : Int) :
    roundHalfAway q 1000000000 =
      if 0 ≤ q then (q + 500000000) / 1000000000 else -((-q + 500000000) / 1000000000) := by
  unfold roundHalfAway; split <;> omega

theorem fieldsOvf_eq (p1 p2 p3 : Int) :
    fieldsOvf p1 p2 p3 =
      decide (p1 < 0 ∨ 262143 < p1 ∨ p2 < 0 ∨ 1048575 < p2 ∨ p3 < 0 ∨ 1048575 < p3) := by
  rw [Bool.eq_iff_iff]
  simp only [fieldsOvf, Bool.not_eq_true', decide_eq_true_eq, Config.p1Max, Config.p2Max, Config.p3Max,
    Bool.and_eq_false_iff, decide_eq_false_iff_not]
  norm_num
  omega

theorem flagsWord_eq (ok divBy4 intMode ovf free : Bool) :
    flagsWord ok divBy4 intMode ovf free =
      BitVec.ofNat 64
        (ok.toNat + 2 * divBy4.toNat + 4 * intMode.toNat + 8 * ovf.toNat + 16 * free.toNat) := by
  revert ok divBy4 intMode ovf free; decide

theorem flagsWord_bits (ok divBy4 intMode ovf free : Bool) :
    (flagsWord ok divBy4 intMode ovf free).getLsbD 0 = ok ∧
      (flagsWord ok divBy4 intMode ovf free).getLsbD 1 = divBy4 ∧
      (flagsWord ok divBy4 intMode ovf free).getLsbD 2 = intMode ∧
      (flagsWord ok divBy4 intMode ovf free).getLsbD 3 = ovf ∧
      (flagsWord ok divBy4 intMode ovf free).getLsbD 4 = free := by
  revert ok divBy4 intMode ovf free; decide

/-- With no fractional part the fields are those of an integer divider. -/
theorem encodeDivider_int (a : Int) : encodeDivider a 0 1 = ⟨128 * a - 512, 0, 1⟩ := by
  simp [encodeDivider]

/-- What a register holds is a number of W bits (R10). -/
theorem regOf_lt (w : Nat) (v : Int) : (regOf w v).toNat < 2 ^ w := by
  have hp : (0 : Int) < 2 ^ w := by positivity
  obtain ⟨n, hn⟩ := Int.eq_ofNat_of_zero_le (Int.emod_nonneg v hp.ne')
  have hlt : n < 2 ^ w := by exact_mod_cast hn ▸ Int.emod_lt_of_pos v hp
  rw [regOf, hn, BitVec.ofInt_natCast, BitVec.toNat_ofNat]
  exact lt_of_le_of_lt (Nat.mod_le _ _) hlt

/-- A number that fits a register and the host register it is read by reads back (R10). -/
theorem toNat_regOf (w : Nat) (v : Int) (h0 : 0 ≤ v) (hw : v < 2 ^ w) (h64 : v < 2 ^ 64) :
    ((regOf w v).toNat : Int) = v := by
  rw [regOf, Int.emod_eq_of_lt h0 hw]
  obtain ⟨n, rfl⟩ := Int.eq_ofNat_of_zero_le h0
  rw [BitVec.ofInt_natCast, BitVec.toNat_ofNat]
  omega

/-- Writing back what a register of W bits holds changes nothing. -/
theorem regOf_toNat (w : Nat) (v : Word) (h : v.toNat < 2 ^ w) : regOf w (v.toNat : Int) = v := by
  have hv : ((v.toNat : Int)) < 2 ^ w := by exact_mod_cast h
  rw [regOf, Int.emod_eq_of_lt (by positivity) hv]
  simp

/-- The code inside a band (R135, R137). -/
theorem rdivSelect_of_band (m f : Int) (j : Nat) (hj : j ≤ 6) (h1 : m * 2 ^ j ≤ f) (h2 : f < m * 2 ^ (j + 1)) :
    rdivSelect m f = 7 - j := by
  have hr : List.range 7 = [0, 1, 2, 3, 4, 5, 6] := rfl
  simp only [rdivSelect, hr, List.foldl]
  interval_cases j <;> norm_num at h1 h2 ⊢ <;> split_ifs <;> omega

/-- The code outside every band (R135). -/
theorem rdivSelect_of_no_band (m f : Int) (h : f < m ∨ m * 128 ≤ f) (_hm : 0 ≤ m) : rdivSelect m f = 0 := by
  have hr : List.range 7 = [0, 1, 2, 3, 4, 5, 6] := rfl
  simp only [rdivSelect, hr, List.foldl]
  norm_num
  split_ifs <;> omega

end Sys2Proof.Machine
end

