-- ==== Sys2Proof/Laws/Decode.lean ====
section
/-! SUPPORT. The fields of a word and the word of its fields are inverse, so a question about decoding is one
about fields. -/

namespace Sys2Proof

@[simp] theorem Fields.ofWord_toWord (f : Fields) : Fields.ofWord f.toWord = f := by
  obtain ⟨op, ch, ps, fld, imm, rsv⟩ := f
  simp only [Fields.ofWord, Fields.toWord, Fields.mk.injEq]
  refine ⟨?_, ?_, ?_, ?_, ?_, ?_⟩ <;>
  · ext i hi
    simp only [BitVec.getElem_extractLsb', BitVec.getLsbD_append]
    interval_cases i <;> simp [BitVec.getLsbD_eq_getElem]

@[simp] theorem Fields.toWord_ofWord (w : CmdWord) : (Fields.ofWord w).toWord = w := by
  simp only [Fields.ofWord, Fields.toWord]
  ext i hi
  simp only [BitVec.getElem_append, BitVec.getElem_extractLsb']
  split
  · simp [BitVec.getLsbD_eq_getElem hi]
  · split
    · simp [show 6 + (i - 6) = i by omega, BitVec.getLsbD_eq_getElem hi]
    · split
      · simp [show 9 + (i - 6 - 3) = i by omega, BitVec.getLsbD_eq_getElem hi]
      · split
        · simp [show 11 + (i - 6 - 3 - 2) = i by omega, BitVec.getLsbD_eq_getElem hi]
        · split
          · simp [show 16 + (i - 6 - 3 - 2 - 5) = i by omega, BitVec.getLsbD_eq_getElem hi]
          · simp [show 24 + (i - 6 - 3 - 2 - 5 - 8) = i by omega, BitVec.getLsbD_eq_getElem hi]

/-- Field ids round trip (R156). -/
@[simp] theorem Field.ofId_id (f : Field) : Field.ofId f.id.toNat = some f := by cases f <;> rfl

end Sys2Proof
end

