-- ==== Sys2Proof/Laws/State.lean ====
section
/-! SUPPORT. What each state update leaves in each field: one lemma per field per update, so that no later
proof unfolds an update. -/

namespace Sys2Proof.Machine

/-! ## State.setX -/

@[simp] theorem setX_regs (s : State) (r : Reg) (v : Int) :
    (s.setX r v).regs = s.regs.set r (regOf s.cfg.width v) := rfl
@[simp] theorem setX_cmd (s : State) (r : Reg) (v : Int) :
    (s.setX r v).cmd = s.cmd := rfl
@[simp] theorem setX_errCause (s : State) (r : Reg) (v : Int) :
    (s.setX r v).errCause = s.errCause := rfl
@[simp] theorem setX_errCmd (s : State) (r : Reg) (v : Int) :
    (s.setX r v).errCmd = s.errCmd := rfl
@[simp] theorem setX_ci (s : State) (r : Reg) (v : Int) :
    (s.setX r v).ci = s.ci := rfl
@[simp] theorem setX_flight (s : State) (r : Reg) (v : Int) :
    (s.setX r v).flight = s.flight := rfl
@[simp] theorem setX_cfg (s : State) (r : Reg) (v : Int) :
    (s.setX r v).cfg = s.cfg := rfl
@[simp] theorem setX_host (s : State) (r : Reg) (v : Int) :
    (s.setX r v).host = s.host := rfl
@[simp] theorem setX_turns (s : State) (r : Reg) (v : Int) :
    (s.setX r v).turns = s.turns := rfl
@[simp] theorem setX_turnDraws (s : State) (r : Reg) (v : Int) :
    (s.setX r v).turnDraws = s.turnDraws := rfl
@[simp] theorem setX_replies (s : State) (r : Reg) (v : Int) :
    (s.setX r v).replies = s.replies := rfl
@[simp] theorem setX_draws (s : State) (r : Reg) (v : Int) :
    (s.setX r v).draws = s.draws := rfl
@[simp] theorem setX_trace (s : State) (r : Reg) (v : Int) :
    (s.setX r v).trace = s.trace := rfl
@[simp] theorem setX_written (s : State) (r : Reg) (v : Int) :
    (s.setX r v).written = s.written := rfl
@[simp] theorem setX_hostReads (s : State) (r : Reg) (v : Int) :
    (s.setX r v).hostReads = s.hostReads := rfl
@[simp] theorem setX_errorLog (s : State) (r : Reg) (v : Int) :
    (s.setX r v).errorLog = s.errorLog := rfl

/-! ## State.dropReply -/

@[simp] theorem dropReply_regs (s : State) :
    (s.dropReply).regs = s.regs := rfl
@[simp] theorem dropReply_cmd (s : State) :
    (s.dropReply).cmd = s.cmd := rfl
@[simp] theorem dropReply_errCause (s : State) :
    (s.dropReply).errCause = s.errCause := rfl
@[simp] theorem dropReply_errCmd (s : State) :
    (s.dropReply).errCmd = s.errCmd := rfl
@[simp] theorem dropReply_ci (s : State) :
    (s.dropReply).ci = s.ci := rfl
@[simp] theorem dropReply_flight (s : State) :
    (s.dropReply).flight = s.flight := rfl
@[simp] theorem dropReply_cfg (s : State) :
    (s.dropReply).cfg = s.cfg := rfl
@[simp] theorem dropReply_host (s : State) :
    (s.dropReply).host = s.host := rfl
@[simp] theorem dropReply_turns (s : State) :
    (s.dropReply).turns = s.turns := rfl
@[simp] theorem dropReply_turnDraws (s : State) :
    (s.dropReply).turnDraws = s.turnDraws := rfl
@[simp] theorem dropReply_replies (s : State) :
    (s.dropReply).replies = s.replies.tail := rfl
@[simp] theorem dropReply_draws (s : State) :
    (s.dropReply).draws = s.draws + 1 := rfl
@[simp] theorem dropReply_trace (s : State) :
    (s.dropReply).trace = s.trace := rfl
@[simp] theorem dropReply_written (s : State) :
    (s.dropReply).written = s.written := rfl
@[simp] theorem dropReply_hostReads (s : State) :
    (s.dropReply).hostReads = s.hostReads := rfl
@[simp] theorem dropReply_errorLog (s : State) :
    (s.dropReply).errorLog = s.errorLog := rfl
@[simp] theorem dropReply_x (s : State) (n : Reg) :
    (s.dropReply).x n = s.x n := rfl

/-! ## State.beginEngineTurn -/

@[simp] theorem beginEngineTurn_regs (s : State) :
    (s.beginEngineTurn).regs = s.regs := rfl
@[simp] theorem beginEngineTurn_cmd (s : State) :
    (s.beginEngineTurn).cmd = s.cmd := rfl
@[simp] theorem beginEngineTurn_errCause (s : State) :
    (s.beginEngineTurn).errCause = s.errCause := rfl
@[simp] theorem beginEngineTurn_errCmd (s : State) :
    (s.beginEngineTurn).errCmd = s.errCmd := rfl
@[simp] theorem beginEngineTurn_ci (s : State) :
    (s.beginEngineTurn).ci = s.ci := rfl
@[simp] theorem beginEngineTurn_flight (s : State) :
    (s.beginEngineTurn).flight = s.flight := rfl
@[simp] theorem beginEngineTurn_cfg (s : State) :
    (s.beginEngineTurn).cfg = s.cfg := rfl
@[simp] theorem beginEngineTurn_host (s : State) :
    (s.beginEngineTurn).host = s.host := rfl
@[simp] theorem beginEngineTurn_turns (s : State) :
    (s.beginEngineTurn).turns = s.turns.tail := rfl
@[simp] theorem beginEngineTurn_turnDraws (s : State) :
    (s.beginEngineTurn).turnDraws = s.turnDraws + 1 := rfl
@[simp] theorem beginEngineTurn_replies (s : State) :
    (s.beginEngineTurn).replies = s.replies := rfl
@[simp] theorem beginEngineTurn_draws (s : State) :
    (s.beginEngineTurn).draws = s.draws := rfl
@[simp] theorem beginEngineTurn_trace (s : State) :
    (s.beginEngineTurn).trace = s.trace := rfl
@[simp] theorem beginEngineTurn_written (s : State) :
    (s.beginEngineTurn).written = s.written := rfl
@[simp] theorem beginEngineTurn_hostReads (s : State) :
    (s.beginEngineTurn).hostReads = s.hostReads := rfl
@[simp] theorem beginEngineTurn_errorLog (s : State) :
    (s.beginEngineTurn).errorLog = s.errorLog := rfl
@[simp] theorem beginEngineTurn_x (s : State) (n : Reg) :
    (s.beginEngineTurn).x n = s.x n := rfl

/-! ## State.spendHostTurn -/

@[simp] theorem spendHostTurn_regs (s : State) :
    (s.spendHostTurn).regs = s.regs := rfl
@[simp] theorem spendHostTurn_cmd (s : State) :
    (s.spendHostTurn).cmd = s.cmd := rfl
@[simp] theorem spendHostTurn_errCause (s : State) :
    (s.spendHostTurn).errCause = s.errCause := rfl
@[simp] theorem spendHostTurn_errCmd (s : State) :
    (s.spendHostTurn).errCmd = s.errCmd := rfl
@[simp] theorem spendHostTurn_ci (s : State) :
    (s.spendHostTurn).ci = s.ci := rfl
@[simp] theorem spendHostTurn_flight (s : State) :
    (s.spendHostTurn).flight = s.flight := rfl
@[simp] theorem spendHostTurn_cfg (s : State) :
    (s.spendHostTurn).cfg = s.cfg := rfl
@[simp] theorem spendHostTurn_host (s : State) :
    (s.spendHostTurn).host = s.host := rfl
@[simp] theorem spendHostTurn_turns (s : State) :
    (s.spendHostTurn).turns = (s.hostTurnsLeft - 1) :: s.turns.tail := rfl
@[simp] theorem spendHostTurn_turnDraws (s : State) :
    (s.spendHostTurn).turnDraws = s.turnDraws := rfl
@[simp] theorem spendHostTurn_replies (s : State) :
    (s.spendHostTurn).replies = s.replies := rfl
@[simp] theorem spendHostTurn_draws (s : State) :
    (s.spendHostTurn).draws = s.draws := rfl
@[simp] theorem spendHostTurn_trace (s : State) :
    (s.spendHostTurn).trace = s.trace := rfl
@[simp] theorem spendHostTurn_written (s : State) :
    (s.spendHostTurn).written = s.written := rfl
@[simp] theorem spendHostTurn_hostReads (s : State) :
    (s.spendHostTurn).hostReads = s.hostReads := rfl
@[simp] theorem spendHostTurn_errorLog (s : State) :
    (s.spendHostTurn).errorLog = s.errorLog := rfl
@[simp] theorem spendHostTurn_x (s : State) (n : Reg) :
    (s.spendHostTurn).x n = s.x n := rfl

/-! ## acceptCommand -/

@[simp] theorem acceptCommand_regs (w : CmdWord) (s : State) :
    (acceptCommand w s).regs = s.regs := rfl
@[simp] theorem acceptCommand_cmd (w : CmdWord) (s : State) :
    (acceptCommand w s).cmd = w := rfl
@[simp] theorem acceptCommand_errCause (w : CmdWord) (s : State) :
    (acceptCommand w s).errCause = s.errCause := rfl
@[simp] theorem acceptCommand_errCmd (w : CmdWord) (s : State) :
    (acceptCommand w s).errCmd = s.errCmd := rfl
@[simp] theorem acceptCommand_ci (w : CmdWord) (s : State) :
    (acceptCommand w s).ci = s.ci := rfl
@[simp] theorem acceptCommand_flight (w : CmdWord) (s : State) :
    (acceptCommand w s).flight = some Flight.fresh := rfl
@[simp] theorem acceptCommand_cfg (w : CmdWord) (s : State) :
    (acceptCommand w s).cfg = s.cfg := rfl
@[simp] theorem acceptCommand_host (w : CmdWord) (s : State) :
    (acceptCommand w s).host = s.host := rfl
@[simp] theorem acceptCommand_turns (w : CmdWord) (s : State) :
    (acceptCommand w s).turns = s.turns := rfl
@[simp] theorem acceptCommand_turnDraws (w : CmdWord) (s : State) :
    (acceptCommand w s).turnDraws = s.turnDraws := rfl
@[simp] theorem acceptCommand_replies (w : CmdWord) (s : State) :
    (acceptCommand w s).replies = s.replies := rfl
@[simp] theorem acceptCommand_draws (w : CmdWord) (s : State) :
    (acceptCommand w s).draws = s.draws := rfl
@[simp] theorem acceptCommand_trace (w : CmdWord) (s : State) :
    (acceptCommand w s).trace = s.trace := rfl
@[simp] theorem acceptCommand_written (w : CmdWord) (s : State) :
    (acceptCommand w s).written = s.written := rfl
@[simp] theorem acceptCommand_hostReads (w : CmdWord) (s : State) :
    (acceptCommand w s).hostReads = s.hostReads := rfl
@[simp] theorem acceptCommand_errorLog (w : CmdWord) (s : State) :
    (acceptCommand w s).errorLog = s.errorLog := rfl
@[simp] theorem acceptCommand_x (w : CmdWord) (s : State) (n : Reg) :
    (acceptCommand w s).x n = s.x n := rfl

/-! ## completeCommand -/

@[simp] theorem completeCommand_regs (s : State) :
    (completeCommand s).regs = s.regs := rfl
@[simp] theorem completeCommand_cmd (s : State) :
    (completeCommand s).cmd = s.cmd := rfl
@[simp] theorem completeCommand_errCause (s : State) :
    (completeCommand s).errCause = s.errCause := rfl
@[simp] theorem completeCommand_errCmd (s : State) :
    (completeCommand s).errCmd = s.errCmd := rfl
@[simp] theorem completeCommand_ci (s : State) :
    (completeCommand s).ci = s.ci + 1 := rfl
@[simp] theorem completeCommand_flight (s : State) :
    (completeCommand s).flight = none := rfl
@[simp] theorem completeCommand_cfg (s : State) :
    (completeCommand s).cfg = s.cfg := rfl
@[simp] theorem completeCommand_host (s : State) :
    (completeCommand s).host = s.host := rfl
@[simp] theorem completeCommand_turns (s : State) :
    (completeCommand s).turns = s.turns := rfl
@[simp] theorem completeCommand_turnDraws (s : State) :
    (completeCommand s).turnDraws = s.turnDraws := rfl
@[simp] theorem completeCommand_replies (s : State) :
    (completeCommand s).replies = s.replies := rfl
@[simp] theorem completeCommand_draws (s : State) :
    (completeCommand s).draws = s.draws := rfl
@[simp] theorem completeCommand_trace (s : State) :
    (completeCommand s).trace = s.trace := rfl
@[simp] theorem completeCommand_written (s : State) :
    (completeCommand s).written = s.written := rfl
@[simp] theorem completeCommand_hostReads (s : State) :
    (completeCommand s).hostReads = s.hostReads := rfl
@[simp] theorem completeCommand_errorLog (s : State) :
    (completeCommand s).errorLog = s.errorLog := rfl
@[simp] theorem completeCommand_x (s : State) (n : Reg) :
    (completeCommand s).x n = s.x n := rfl

/-! ## enterError -/

@[simp] theorem enterError_regs (c : Cause) (s : State) :
    (enterError c s).regs = s.regs := rfl
@[simp] theorem enterError_cmd (c : Cause) (s : State) :
    (enterError c s).cmd = s.cmd := rfl
@[simp] theorem enterError_errCause (c : Cause) (s : State) :
    (enterError c s).errCause = c.code := rfl
@[simp] theorem enterError_errCmd (c : Cause) (s : State) :
    (enterError c s).errCmd = s.cmd := rfl
@[simp] theorem enterError_ci (c : Cause) (s : State) :
    (enterError c s).ci = s.ci + 1 := rfl
@[simp] theorem enterError_flight (c : Cause) (s : State) :
    (enterError c s).flight = none := rfl
@[simp] theorem enterError_cfg (c : Cause) (s : State) :
    (enterError c s).cfg = s.cfg := rfl
@[simp] theorem enterError_host (c : Cause) (s : State) :
    (enterError c s).host = s.host := rfl
@[simp] theorem enterError_turns (c : Cause) (s : State) :
    (enterError c s).turns = s.turns := rfl
@[simp] theorem enterError_turnDraws (c : Cause) (s : State) :
    (enterError c s).turnDraws = s.turnDraws := rfl
@[simp] theorem enterError_replies (c : Cause) (s : State) :
    (enterError c s).replies = s.replies := rfl
@[simp] theorem enterError_draws (c : Cause) (s : State) :
    (enterError c s).draws = s.draws := rfl
@[simp] theorem enterError_trace (c : Cause) (s : State) :
    (enterError c s).trace = s.trace := rfl
@[simp] theorem enterError_written (c : Cause) (s : State) :
    (enterError c s).written = s.written := rfl
@[simp] theorem enterError_hostReads (c : Cause) (s : State) :
    (enterError c s).hostReads = s.hostReads := rfl
@[simp] theorem enterError_errorLog (c : Cause) (s : State) :
    (enterError c s).errorLog = s.errorLog ++ [⟨c.code, s.cmd⟩] := rfl
@[simp] theorem enterError_x (c : Cause) (s : State) (n : Reg) :
    (enterError c s).x n = s.x n := rfl

/-! ## clearError -/

@[simp] theorem clearError_regs (s : State) :
    (clearError s).regs = s.regs := rfl
@[simp] theorem clearError_cmd (s : State) :
    (clearError s).cmd = s.cmd := rfl
@[simp] theorem clearError_errCause (s : State) :
    (clearError s).errCause = 0 := rfl
@[simp] theorem clearError_errCmd (s : State) :
    (clearError s).errCmd = 0 := rfl
@[simp] theorem clearError_ci (s : State) :
    (clearError s).ci = s.ci := rfl
@[simp] theorem clearError_flight (s : State) :
    (clearError s).flight = s.flight := rfl
@[simp] theorem clearError_cfg (s : State) :
    (clearError s).cfg = s.cfg := rfl
@[simp] theorem clearError_host (s : State) :
    (clearError s).host = s.host := rfl
@[simp] theorem clearError_turns (s : State) :
    (clearError s).turns = s.turns := rfl
@[simp] theorem clearError_turnDraws (s : State) :
    (clearError s).turnDraws = s.turnDraws := rfl
@[simp] theorem clearError_replies (s : State) :
    (clearError s).replies = s.replies := rfl
@[simp] theorem clearError_draws (s : State) :
    (clearError s).draws = s.draws := rfl
@[simp] theorem clearError_trace (s : State) :
    (clearError s).trace = s.trace := rfl
@[simp] theorem clearError_written (s : State) :
    (clearError s).written = s.written := rfl
@[simp] theorem clearError_hostReads (s : State) :
    (clearError s).hostReads = s.hostReads := rfl
@[simp] theorem clearError_errorLog (s : State) :
    (clearError s).errorLog = s.errorLog := rfl
@[simp] theorem clearError_x (s : State) (n : Reg) :
    (clearError s).x n = s.x n := rfl

/-! ## readCompleted -/

@[simp] theorem readCompleted_regs (a : Nat) (b : Byte) (s : State) :
    (readCompleted a b s).regs = s.regs := rfl
@[simp] theorem readCompleted_cmd (a : Nat) (b : Byte) (s : State) :
    (readCompleted a b s).cmd = s.cmd := rfl
@[simp] theorem readCompleted_errCause (a : Nat) (b : Byte) (s : State) :
    (readCompleted a b s).errCause = s.errCause := rfl
@[simp] theorem readCompleted_errCmd (a : Nat) (b : Byte) (s : State) :
    (readCompleted a b s).errCmd = s.errCmd := rfl
@[simp] theorem readCompleted_ci (a : Nat) (b : Byte) (s : State) :
    (readCompleted a b s).ci = s.ci := rfl
@[simp] theorem readCompleted_flight (a : Nat) (b : Byte) (s : State) :
    (readCompleted a b s).flight = some ⟨s.currentFlight.position + 1, s.currentFlight.held ++ [b], none⟩ := rfl
@[simp] theorem readCompleted_cfg (a : Nat) (b : Byte) (s : State) :
    (readCompleted a b s).cfg = s.cfg := rfl
@[simp] theorem readCompleted_host (a : Nat) (b : Byte) (s : State) :
    (readCompleted a b s).host = s.host := rfl
@[simp] theorem readCompleted_turns (a : Nat) (b : Byte) (s : State) :
    (readCompleted a b s).turns = s.turns := rfl
@[simp] theorem readCompleted_turnDraws (a : Nat) (b : Byte) (s : State) :
    (readCompleted a b s).turnDraws = s.turnDraws := rfl
@[simp] theorem readCompleted_replies (a : Nat) (b : Byte) (s : State) :
    (readCompleted a b s).replies = s.replies := rfl
@[simp] theorem readCompleted_draws (a : Nat) (b : Byte) (s : State) :
    (readCompleted a b s).draws = s.draws := rfl
@[simp] theorem readCompleted_trace (a : Nat) (b : Byte) (s : State) :
    (readCompleted a b s).trace = s.trace ++ [⟨.readByte a, .byte b⟩] := rfl
@[simp] theorem readCompleted_written (a : Nat) (b : Byte) (s : State) :
    (readCompleted a b s).written = s.written := rfl
@[simp] theorem readCompleted_hostReads (a : Nat) (b : Byte) (s : State) :
    (readCompleted a b s).hostReads = s.hostReads := rfl
@[simp] theorem readCompleted_errorLog (a : Nat) (b : Byte) (s : State) :
    (readCompleted a b s).errorLog = s.errorLog := rfl
@[simp] theorem readCompleted_x (a : Nat) (b : Byte) (s : State) (n : Reg) :
    (readCompleted a b s).x n = s.x n := rfl

/-! ## writeCompleted -/

@[simp] theorem writeCompleted_regs (r : Request) (s : State) :
    (writeCompleted r s).regs = s.regs := rfl
@[simp] theorem writeCompleted_cmd (r : Request) (s : State) :
    (writeCompleted r s).cmd = s.cmd := rfl
@[simp] theorem writeCompleted_errCause (r : Request) (s : State) :
    (writeCompleted r s).errCause = s.errCause := rfl
@[simp] theorem writeCompleted_errCmd (r : Request) (s : State) :
    (writeCompleted r s).errCmd = s.errCmd := rfl
@[simp] theorem writeCompleted_ci (r : Request) (s : State) :
    (writeCompleted r s).ci = s.ci := rfl
@[simp] theorem writeCompleted_flight (r : Request) (s : State) :
    (writeCompleted r s).flight = some ⟨s.currentFlight.position + 1, s.currentFlight.held, none⟩ := rfl
@[simp] theorem writeCompleted_cfg (r : Request) (s : State) :
    (writeCompleted r s).cfg = s.cfg := rfl
@[simp] theorem writeCompleted_host (r : Request) (s : State) :
    (writeCompleted r s).host = s.host := rfl
@[simp] theorem writeCompleted_turns (r : Request) (s : State) :
    (writeCompleted r s).turns = s.turns := rfl
@[simp] theorem writeCompleted_turnDraws (r : Request) (s : State) :
    (writeCompleted r s).turnDraws = s.turnDraws := rfl
@[simp] theorem writeCompleted_replies (r : Request) (s : State) :
    (writeCompleted r s).replies = s.replies := rfl
@[simp] theorem writeCompleted_draws (r : Request) (s : State) :
    (writeCompleted r s).draws = s.draws := rfl
@[simp] theorem writeCompleted_trace (r : Request) (s : State) :
    (writeCompleted r s).trace = s.trace ++ [⟨r, .done⟩] := rfl
@[simp] theorem writeCompleted_written (r : Request) (s : State) :
    (writeCompleted r s).written = s.written.writeBytes r.addr r.payload := rfl
@[simp] theorem writeCompleted_hostReads (r : Request) (s : State) :
    (writeCompleted r s).hostReads = s.hostReads := rfl
@[simp] theorem writeCompleted_errorLog (r : Request) (s : State) :
    (writeCompleted r s).errorLog = s.errorLog := rfl
@[simp] theorem writeCompleted_x (r : Request) (s : State) (n : Reg) :
    (writeCompleted r s).x n = s.x n := rfl

/-! ## transactionFailed -/

@[simp] theorem transactionFailed_regs (r : Request) (s : State) :
    (transactionFailed r s).regs = s.regs := rfl
@[simp] theorem transactionFailed_cmd (r : Request) (s : State) :
    (transactionFailed r s).cmd = s.cmd := rfl
@[simp] theorem transactionFailed_errCause (r : Request) (s : State) :
    (transactionFailed r s).errCause = Cause.transport.code := rfl
@[simp] theorem transactionFailed_errCmd (r : Request) (s : State) :
    (transactionFailed r s).errCmd = s.cmd := rfl
@[simp] theorem transactionFailed_ci (r : Request) (s : State) :
    (transactionFailed r s).ci = s.ci + 1 := rfl
@[simp] theorem transactionFailed_flight (r : Request) (s : State) :
    (transactionFailed r s).flight = none := rfl
@[simp] theorem transactionFailed_cfg (r : Request) (s : State) :
    (transactionFailed r s).cfg = s.cfg := rfl
@[simp] theorem transactionFailed_host (r : Request) (s : State) :
    (transactionFailed r s).host = s.host := rfl
@[simp] theorem transactionFailed_turns (r : Request) (s : State) :
    (transactionFailed r s).turns = s.turns := rfl
@[simp] theorem transactionFailed_turnDraws (r : Request) (s : State) :
    (transactionFailed r s).turnDraws = s.turnDraws := rfl
@[simp] theorem transactionFailed_replies (r : Request) (s : State) :
    (transactionFailed r s).replies = s.replies := rfl
@[simp] theorem transactionFailed_draws (r : Request) (s : State) :
    (transactionFailed r s).draws = s.draws := rfl
@[simp] theorem transactionFailed_trace (r : Request) (s : State) :
    (transactionFailed r s).trace = s.trace ++ [⟨r, .failed⟩] := rfl
@[simp] theorem transactionFailed_written (r : Request) (s : State) :
    (transactionFailed r s).written = s.written.forgetRange r.addr r.payload.length := rfl
@[simp] theorem transactionFailed_hostReads (r : Request) (s : State) :
    (transactionFailed r s).hostReads = s.hostReads := rfl
@[simp] theorem transactionFailed_errorLog (r : Request) (s : State) :
    (transactionFailed r s).errorLog = s.errorLog ++ [⟨Cause.transport.code, s.cmd⟩] := rfl
@[simp] theorem transactionFailed_x (r : Request) (s : State) (n : Reg) :
    (transactionFailed r s).x n = s.x n := rfl

/-! ## awaitPort -/

@[simp] theorem awaitPort_regs (r : Request) (s : State) :
    (awaitPort r s).regs = s.regs := rfl
@[simp] theorem awaitPort_cmd (r : Request) (s : State) :
    (awaitPort r s).cmd = s.cmd := rfl
@[simp] theorem awaitPort_errCause (r : Request) (s : State) :
    (awaitPort r s).errCause = s.errCause := rfl
@[simp] theorem awaitPort_errCmd (r : Request) (s : State) :
    (awaitPort r s).errCmd = s.errCmd := rfl
@[simp] theorem awaitPort_ci (r : Request) (s : State) :
    (awaitPort r s).ci = s.ci := rfl
@[simp] theorem awaitPort_flight (r : Request) (s : State) :
    (awaitPort r s).flight = some { s.currentFlight with outstanding := some r } := rfl
@[simp] theorem awaitPort_cfg (r : Request) (s : State) :
    (awaitPort r s).cfg = s.cfg := rfl
@[simp] theorem awaitPort_host (r : Request) (s : State) :
    (awaitPort r s).host = s.host := rfl
@[simp] theorem awaitPort_turns (r : Request) (s : State) :
    (awaitPort r s).turns = s.turns := rfl
@[simp] theorem awaitPort_turnDraws (r : Request) (s : State) :
    (awaitPort r s).turnDraws = s.turnDraws := rfl
@[simp] theorem awaitPort_replies (r : Request) (s : State) :
    (awaitPort r s).replies = s.replies := rfl
@[simp] theorem awaitPort_draws (r : Request) (s : State) :
    (awaitPort r s).draws = s.draws := rfl
@[simp] theorem awaitPort_trace (r : Request) (s : State) :
    (awaitPort r s).trace = s.trace := rfl
@[simp] theorem awaitPort_written (r : Request) (s : State) :
    (awaitPort r s).written = s.written := rfl
@[simp] theorem awaitPort_hostReads (r : Request) (s : State) :
    (awaitPort r s).hostReads = s.hostReads := rfl
@[simp] theorem awaitPort_errorLog (r : Request) (s : State) :
    (awaitPort r s).errorLog = s.errorLog := rfl
@[simp] theorem awaitPort_x (r : Request) (s : State) (n : Reg) :
    (awaitPort r s).x n = s.x n := rfl

/-! ## popHost -/

@[simp] theorem popHost_regs (s : State) :
    (popHost s).regs = s.regs := rfl
@[simp] theorem popHost_cmd (s : State) :
    (popHost s).cmd = s.cmd := rfl
@[simp] theorem popHost_errCause (s : State) :
    (popHost s).errCause = s.errCause := rfl
@[simp] theorem popHost_errCmd (s : State) :
    (popHost s).errCmd = s.errCmd := rfl
@[simp] theorem popHost_ci (s : State) :
    (popHost s).ci = s.ci := rfl
@[simp] theorem popHost_flight (s : State) :
    (popHost s).flight = s.flight := rfl
@[simp] theorem popHost_cfg (s : State) :
    (popHost s).cfg = s.cfg := rfl
@[simp] theorem popHost_host (s : State) :
    (popHost s).host = s.host.tail := rfl
@[simp] theorem popHost_turns (s : State) :
    (popHost s).turns = s.turns := rfl
@[simp] theorem popHost_turnDraws (s : State) :
    (popHost s).turnDraws = s.turnDraws := rfl
@[simp] theorem popHost_replies (s : State) :
    (popHost s).replies = s.replies := rfl
@[simp] theorem popHost_draws (s : State) :
    (popHost s).draws = s.draws := rfl
@[simp] theorem popHost_trace (s : State) :
    (popHost s).trace = s.trace := rfl
@[simp] theorem popHost_written (s : State) :
    (popHost s).written = s.written := rfl
@[simp] theorem popHost_hostReads (s : State) :
    (popHost s).hostReads = s.hostReads := rfl
@[simp] theorem popHost_errorLog (s : State) :
    (popHost s).errorLog = s.errorLog := rfl
@[simp] theorem popHost_x (s : State) (n : Reg) :
    (popHost s).x n = s.x n := rfl

/-! ## Registers -/

/-- A register read after a register write. -/
@[simp] theorem get_set (r : Regs) (n m : Reg) (v : Word) :
    (r.set n v).get m = if m = n then v else r.get m := by
  cases n <;> cases m <;> rfl

@[simp] theorem setX_x (s : State) (n m : Reg) (v : Int) :
    (s.setX n v).x m = if m = n then regOf s.cfg.width v else s.x m := get_set s.regs n m _

/-- Two register files that read the same everywhere are the same. -/
theorem regs_ext (r q : Regs) (h : ∀ n, r.get n = q.get n) : r = q := by
  have := h .freq; have := h .pllf; have := h .ref; have := h .corr; have := h .a; have := h .b
  have := h .c; have := h .p1; have := h .p2; have := h .p3; have := h .rf; have := h .refc
  have := h .vxp; have := h .rdiv; have := h .flags; have := h .stat
  cases r; cases q; simp_all [Regs.get]

/-- Register i of the index map is the one whose index is i (R20). -/
theorem ofIndex_index (r : Reg) : Reg.ofIndex r.index = some r := by cases r <;> rfl

/-- What a list of register writes leaves: the registers, and nothing else. -/
theorem writeRegs_eq (ws : List (Reg × Int)) (s : State) :
    s.writeRegs ws = { s with regs := (s.writeRegs ws).regs } := by
  induction ws generalizing s with
  | nil => rfl
  | cons w rest ih => rw [State.writeRegs, ih]; rfl

@[simp] theorem writeRegs_cmd (ws : List (Reg × Int)) (s : State) :
    (s.writeRegs ws).cmd = s.cmd := by rw [writeRegs_eq]
@[simp] theorem writeRegs_errCause (ws : List (Reg × Int)) (s : State) :
    (s.writeRegs ws).errCause = s.errCause := by rw [writeRegs_eq]
@[simp] theorem writeRegs_errCmd (ws : List (Reg × Int)) (s : State) :
    (s.writeRegs ws).errCmd = s.errCmd := by rw [writeRegs_eq]
@[simp] theorem writeRegs_ci (ws : List (Reg × Int)) (s : State) :
    (s.writeRegs ws).ci = s.ci := by rw [writeRegs_eq]
@[simp] theorem writeRegs_flight (ws : List (Reg × Int)) (s : State) :
    (s.writeRegs ws).flight = s.flight := by rw [writeRegs_eq]
@[simp] theorem writeRegs_cfg (ws : List (Reg × Int)) (s : State) :
    (s.writeRegs ws).cfg = s.cfg := by rw [writeRegs_eq]
@[simp] theorem writeRegs_host (ws : List (Reg × Int)) (s : State) :
    (s.writeRegs ws).host = s.host := by rw [writeRegs_eq]
@[simp] theorem writeRegs_turns (ws : List (Reg × Int)) (s : State) :
    (s.writeRegs ws).turns = s.turns := by rw [writeRegs_eq]
@[simp] theorem writeRegs_turnDraws (ws : List (Reg × Int)) (s : State) :
    (s.writeRegs ws).turnDraws = s.turnDraws := by rw [writeRegs_eq]
@[simp] theorem writeRegs_replies (ws : List (Reg × Int)) (s : State) :
    (s.writeRegs ws).replies = s.replies := by rw [writeRegs_eq]
@[simp] theorem writeRegs_draws (ws : List (Reg × Int)) (s : State) :
    (s.writeRegs ws).draws = s.draws := by rw [writeRegs_eq]
@[simp] theorem writeRegs_trace (ws : List (Reg × Int)) (s : State) :
    (s.writeRegs ws).trace = s.trace := by rw [writeRegs_eq]
@[simp] theorem writeRegs_written (ws : List (Reg × Int)) (s : State) :
    (s.writeRegs ws).written = s.written := by rw [writeRegs_eq]
@[simp] theorem writeRegs_hostReads (ws : List (Reg × Int)) (s : State) :
    (s.writeRegs ws).hostReads = s.hostReads := by rw [writeRegs_eq]
@[simp] theorem writeRegs_errorLog (ws : List (Reg × Int)) (s : State) :
    (s.writeRegs ws).errorLog = s.errorLog := by rw [writeRegs_eq]

/-- A register no write names keeps its value. -/
theorem writeRegs_x_of_not_mem (ws : List (Reg × Int)) (s : State) (n : Reg)
    (h : n ∉ ws.map Prod.fst) : (s.writeRegs ws).x n = s.x n := by
  induction ws generalizing s with
  | nil => rfl
  | cons w rest ih =>
    simp only [List.map_cons, List.mem_cons, not_or] at h
    rw [State.writeRegs, ih _ h.2, setX_x, if_neg h.1]

/-! ## Draws -/

/-- After a draw the replies move up by one. -/
@[simp] theorem replyAt_dropReply (s : State) (k : Nat) : s.dropReply.replyAt k = s.replyAt (k + 1) := by
  simp [State.replyAt, Nat.add_assoc, Nat.add_comm 1 k]

@[simp] theorem setX_replyAt (s : State) (r : Reg) (v : Int) (k : Nat) :
    (s.setX r v).replyAt k = s.replyAt k := rfl
@[simp] theorem beginEngineTurn_replyAt (s : State) (k : Nat) :
    (s.beginEngineTurn).replyAt k = s.replyAt k := rfl
@[simp] theorem spendHostTurn_replyAt (s : State) (k : Nat) :
    (s.spendHostTurn).replyAt k = s.replyAt k := rfl
@[simp] theorem acceptCommand_replyAt (w : CmdWord) (s : State) (k : Nat) :
    (acceptCommand w s).replyAt k = s.replyAt k := rfl
@[simp] theorem completeCommand_replyAt (s : State) (k : Nat) :
    (completeCommand s).replyAt k = s.replyAt k := rfl
@[simp] theorem enterError_replyAt (c : Cause) (s : State) (k : Nat) :
    (enterError c s).replyAt k = s.replyAt k := rfl
@[simp] theorem clearError_replyAt (s : State) (k : Nat) :
    (clearError s).replyAt k = s.replyAt k := rfl
@[simp] theorem readCompleted_replyAt (a : Nat) (b : Byte) (s : State) (k : Nat) :
    (readCompleted a b s).replyAt k = s.replyAt k := rfl
@[simp] theorem writeCompleted_replyAt (r : Request) (s : State) (k : Nat) :
    (writeCompleted r s).replyAt k = s.replyAt k := rfl
@[simp] theorem transactionFailed_replyAt (r : Request) (s : State) (k : Nat) :
    (transactionFailed r s).replyAt k = s.replyAt k := rfl
@[simp] theorem awaitPort_replyAt (r : Request) (s : State) (k : Nat) :
    (awaitPort r s).replyAt k = s.replyAt k := rfl
@[simp] theorem popHost_replyAt (s : State) (k : Nat) :
    (popHost s).replyAt k = s.replyAt k := rfl

/-- Reset leaves every register 0 (R39). -/
@[simp] theorem zero_get (n : Reg) : Regs.zero.get n = 0 := by cases n <;> rfl

/-- An accepted command starts afresh. -/
@[simp] theorem currentFlight_of_some (s : State) (f : Flight) (h : s.flight = some f) :
    s.currentFlight = f := by simp [State.currentFlight, h]

end Sys2Proof.Machine
end

