-- ==== Sys2Proof/Laws/Host.lean ====
section
/-! SUPPORT. Register files equal register by register, the host register map at engine registers, and which
agent a step runs: the cases of `step`, of one host turn and of a run of several steps, each said once. -/

namespace Sys2Proof.Machine

/-! ## The register file -/

/-- The register file is the sixteen registers. -/
theorem Regs.ext_get (r q : Regs) (h : ∀ n, r.get n = q.get n) : r = q := by
  obtain ⟨_, _, _, _, _, _, _, _, _, _, _, _, _, _, _, _⟩ := r
  obtain ⟨_, _, _, _, _, _, _, _, _, _, _, _, _, _, _, _⟩ := q
  simp only [Regs.mk.injEq]
  exact ⟨h .freq, h .pllf, h .ref, h .corr, h .a, h .b, h .c, h .p1, h .p2, h .p3, h .rf, h .refc,
    h .vxp, h .rdiv, h .flags, h .stat⟩

/-! ## The host register map (R32) -/

@[simp] theorem Reg.ofIndex_index (r : Reg) : Reg.ofIndex r.index = some r := by cases r <;> rfl

theorem Reg.index_of_ofIndex (i : Nat) (r : Reg) (h : Reg.ofIndex i = some r) : r.index = i := by
  unfold Reg.ofIndex at h
  split at h <;> simp at h <;> subst h <;> rfl

theorem hostReg_engine (r : Reg) : hostReg (0x080 + 8 * r.index) = some (.engine r) := by
  cases r <;> rfl

/-! ## Which agent moves -/

theorem step_idle (s : State) (h : s.flight = none) : step s = hostTurn s := by simp [step, h]

theorem step_engine (s : State) (f : Flight) (h : s.flight = some f) (ht : s.hostTurnsLeft = 0) :
    step s = engineStep s.beginEngineTurn := by simp [step, h, ht]

theorem step_host (s : State) (f : Flight) (h : s.flight = some f) (ht : s.hostTurnsLeft ≠ 0) :
    step s = hostTurn s.spendHostTurn := by
  obtain ⟨n, hn⟩ := Nat.exists_eq_succ_of_ne_zero ht
  simp [step, h, hn]

/-- The host moves when no command is in progress, or when it has turns left before the engine's. -/
theorem step_of_host (s : State) (h : s.busy = true → s.hostTurnsLeft ≠ 0) :
    step s = hostTurn (if s.busy then s.spendHostTurn else s) := by
  cases hf : s.flight with
  | none => simp [State.busy, hf, step]
  | some f =>
    have hb : s.busy = true := by simp [State.busy, hf]
    rw [step_host s f hf (h hb), if_pos hb]

/-- Every step is one of the two agents' turns. -/
theorem step_cases (s : State) :
    (step s = hostTurn s ∧ s.flight = none) ∨
      ((∃ f, s.flight = some f) ∧
        (step s = engineStep s.beginEngineTurn ∨ step s = hostTurn s.spendHostTurn)) := by
  cases hf : s.flight with
  | none => exact .inl ⟨step_idle s hf, rfl⟩
  | some f =>
    refine .inr ⟨⟨f, rfl⟩, ?_⟩
    by_cases ht : s.hostTurnsLeft = 0
    · exact .inl (step_engine s f hf ht)
    · exact .inr (step_host s f hf ht)

/-- A turn of the host brings the engine's turn one nearer (R225). -/
@[simp] theorem spendHostTurn_hostTurnsLeft (s : State) :
    s.spendHostTurn.hostTurnsLeft = s.hostTurnsLeft - 1 := by
  simp [State.hostTurnsLeft, State.spendHostTurn]

/-! ## Runs -/

@[simp] theorem run_zero (s : State) : core.run 0 s = .next s := rfl

theorem run_succ_next (n : Nat) (s t : State) (h : step s = .next t) :
    core.run (n + 1) s = core.run n t := by
  simp only [core, Host.Core.run, h]

theorem run_succ_refused (n : Nat) (s : State) (r : Refusal) (h : step s = .refused r) :
    core.run (n + 1) s = .refused r := by
  simp only [core, Host.Core.run, h]

/-- A run of n + 1 steps is a step and a run of n steps. -/
theorem run_succ_cases (n : Nat) (s t : State) (h : core.run (n + 1) s = .next t) :
    ∃ u, step s = .next u ∧ core.run n u = .next t := by
  cases hs : step s with
  | next u => exact ⟨u, rfl, by rw [← run_succ_next n s u hs]; exact h⟩
  | fault f => cases f
  | refused r => rw [run_succ_refused n s r hs] at h; cases h

/-! ## The host's turn, by its next action -/

theorem hostTurn_nil (s : State) (h : s.host = []) : hostTurn s = .next s := by simp [hostTurn, h]

theorem hostTurn_write (s : State) (offset : Nat) (v : Word) (rest : List HostAction)
    (h : s.host = .write offset v :: rest) :
    hostTurn s = hostWrite offset v { s with host := rest } := by
  simp [hostTurn, h, popHost]

theorem hostTurn_read (s : State) (offset : Nat) (rest : List HostAction)
    (h : s.host = .read offset :: rest) : hostTurn s = hostRead offset { s with host := rest } := by
  simp [hostTurn, h, popHost]

theorem hostTurn_wait (s : State) (rest : List HostAction) (h : s.host = .waitIdle :: rest) :
    hostTurn s = hostRead 0x008 (if s.busy then s else { s with host := rest }) := by
  simp [hostTurn, h, popHost]

theorem hostTurn_pollInit (s : State) (rest : List HostAction) (h : s.host = .pollInit :: rest) :
    hostTurn s = .next { s with host := pollRound ++ rest } := by
  simp [hostTurn, h]

theorem hostTurn_pollCheck (s : State) (rest : List HostAction) (h : s.host = .pollCheck :: rest) :
    hostTurn s =
      hostRead 0x0F8 { s with host := if s.sysInit then .pollInit :: rest else rest } := by
  simp [hostTurn, h, Reg.offset, Reg.index]

theorem hostTurn_reset (s : State) (rest : List HostAction) (h : s.host = .reset :: rest) :
    hostTurn s = .next (resetEngine { s with host := rest }) := by
  simp [hostTurn, h, popHost]

end Sys2Proof.Machine
end

