-- ==== Sys2Proof/Laws/Memory.lean ====
section
/-! SUPPORT. The device-byte operations: read after write and after forget, and that every operation keeps
the canonical form and the bound of the address space. -/

namespace Sys2Proof.Machine

theorem Memory.read_write (m : Memory) (hm : m.wf) (a b : Nat) (v : Byte) :
    (Memory.write m a v).read b = if b = a then some v else m.read b := by
  induction m with
  | nil =>
    by_cases h : b = a
    · simp [Memory.write, Memory.read, h]
    · simp [Memory.write, Memory.read, h, Ne.symm h]
  | cons c rest ih =>
    have hrest : Memory.wf rest := (List.pairwise_cons.mp hm).2
    simp only [Memory.write]
    split
    · by_cases h : b = a
      · simp [Memory.read, h]
      · simp [Memory.read, h, Ne.symm h]
    · split
      · rename_i h1 h2
        by_cases h : b = a
        · simp [Memory.read, h]
        · simp [Memory.read, h, Ne.symm h, h2]
      · rename_i h1 h2
        by_cases h : c.1 = b
        · have : b ≠ a := by omega
          simp [Memory.read, h, this]
        · simp [Memory.read, h, ih hrest]

theorem Memory.read_forget (m : Memory) (a b : Nat) :
    (Memory.forget m a).read b = if b = a then none else m.read b := by
  induction m with
  | nil => simp [Memory.forget, Memory.read]
  | cons c rest ih =>
    simp only [Memory.forget]
    split
    · rename_i h
      rw [ih]
      by_cases hb : b = a
      · simp [hb]
      · simp [Memory.read, hb, h, Ne.symm hb]
    · rename_i h
      by_cases hb : c.1 = b
      · have : b ≠ a := by omega
        simp [Memory.read, hb, this]
      · simp [Memory.read, hb, ih]

/-- Every entry of a memory after a write is the new one or an old one. -/
theorem Memory.mem_write (m : Memory) (a : Nat) (v : Byte) (c : Host.Cell)
    (h : c ∈ Memory.write m a v) : c.1 = a ∨ c ∈ m := by
  induction m with
  | nil => simp [Memory.write] at h; simp [h]
  | cons d rest ih =>
    simp only [Memory.write] at h
    split at h
    · rcases List.mem_cons.mp h with h | h
      · simp [h]
      · exact .inr h
    · split at h
      · rcases List.mem_cons.mp h with h | h
        · simp [h]
        · exact .inr (List.mem_cons_of_mem _ h)
      · rcases List.mem_cons.mp h with h | h
        · simp [h]
        · exact (ih h).imp_right (List.mem_cons_of_mem _)

theorem Memory.mem_forget (m : Memory) (a : Nat) (c : Host.Cell)
    (h : c ∈ Memory.forget m a) : c ∈ m := by
  induction m with
  | nil => simp [Memory.forget] at h
  | cons d rest ih =>
    simp only [Memory.forget] at h
    split at h
    · exact List.mem_cons_of_mem _ (ih h)
    · rcases List.mem_cons.mp h with h | h
      · simp [h]
      · exact List.mem_cons_of_mem _ (ih h)

theorem Memory.wf_write (m : Memory) (hm : m.wf) (a : Nat) (v : Byte) : (Memory.write m a v).wf := by
  induction m with
  | nil => simp [Memory.write, Memory.wf]
  | cons c rest ih =>
    have ⟨hc, hrest⟩ := List.pairwise_cons.mp hm
    simp only [Memory.write]
    split
    · rename_i h
      refine List.pairwise_cons.mpr ⟨fun d hd => ?_, hm⟩
      rcases List.mem_cons.mp hd with rfl | hd
      · exact h
      · exact Nat.lt_trans h (hc d hd)
    · split
      · rename_i h1 h2
        exact List.pairwise_cons.mpr ⟨fun d hd => h2 ▸ hc d hd, hrest⟩
      · rename_i h1 h2
        refine List.pairwise_cons.mpr ⟨fun d hd => ?_, ih hrest⟩
        rcases Memory.mem_write rest a v d hd with h | h
        · omega
        · exact hc d h

theorem Memory.wf_forget (m : Memory) (hm : m.wf) (a : Nat) : (Memory.forget m a).wf := by
  induction m with
  | nil => simp [Memory.forget, Memory.wf]
  | cons c rest ih =>
    have ⟨hc, hrest⟩ := List.pairwise_cons.mp hm
    simp only [Memory.forget]
    split
    · exact ih hrest
    · exact List.pairwise_cons.mpr ⟨fun d hd => hc d (Memory.mem_forget rest a d hd), ih hrest⟩

theorem Memory.wf_writeBytes (bs : List Byte) (m : Memory) (hm : m.wf) (a : Nat) :
    (m.writeBytes a bs).wf := by
  induction bs generalizing m a with
  | nil => exact hm
  | cons v rest ih => exact ih _ (Memory.wf_write m hm a v) _

theorem Memory.wf_forgetRange (n : Nat) (m : Memory) (hm : m.wf) (a : Nat) :
    (m.forgetRange a n).wf := by
  induction n generalizing m a with
  | zero => exact hm
  | succ k ih => exact ih _ (Memory.wf_forget m hm a) _

/-- A byte read after a run of bytes is written. -/
theorem Memory.read_writeBytes (bs : List Byte) (m : Memory) (hm : m.wf) (a b : Nat) :
    (m.writeBytes a bs).read b =
      if a ≤ b ∧ b < a + bs.length then bs[b - a]? else m.read b := by
  induction bs generalizing m a with
  | nil =>
    have : ¬ (a ≤ b ∧ b < a) := by omega
    simp [Memory.writeBytes, this]
  | cons v rest ih =>
    rw [Memory.writeBytes, ih _ (Memory.wf_write m hm a v), Memory.read_write m hm]
    by_cases h1 : a + 1 ≤ b ∧ b < a + 1 + rest.length
    · have h2 : a ≤ b ∧ b < a + (v :: rest).length := by simp only [List.length_cons]; omega
      obtain ⟨k, rfl⟩ : ∃ k, b = a + 1 + k := ⟨b - (a + 1), by omega⟩
      have h3 : a + 1 + k - a = k + 1 := by omega
      rw [if_pos h1, if_pos h2, h3, Nat.add_sub_cancel_left, List.getElem?_cons_succ]
    · rw [if_neg h1]
      by_cases h2 : b = a
      · subst h2
        simp
      · have h3 : ¬ (a ≤ b ∧ b < a + (v :: rest).length) := by simp only [List.length_cons]; omega
        simp only [if_neg h2, if_neg h3]

/-- A byte read after a range has become unknown. -/
theorem Memory.read_forgetRange (n : Nat) (m : Memory) (a b : Nat) :
    (m.forgetRange a n).read b = if a ≤ b ∧ b < a + n then none else m.read b := by
  induction n generalizing m a with
  | zero =>
    have : ¬ (a ≤ b ∧ b < a) := by omega
    simp [Memory.forgetRange, this]
  | succ k ih =>
    rw [Memory.forgetRange, ih, Memory.read_forget]
    by_cases h1 : a + 1 ≤ b ∧ b < a + 1 + k
    · have h2 : a ≤ b ∧ b < a + (k + 1) := by omega
      rw [if_pos h1, if_pos h2]
    · rw [if_neg h1]
      by_cases h2 : b = a
      · subst h2; simp
      · have h3 : ¬ (a ≤ b ∧ b < a + (k + 1)) := by omega
        rw [if_neg h2, if_neg h3]

/-- Addresses stay below a bound that the written bytes respect. -/
theorem Memory.bound_writeBytes (bs : List Byte) (m : Memory) (a n : Nat) (hm : ∀ c ∈ m, c.1 < n)
    (ha : a + bs.length ≤ n) : ∀ c ∈ m.writeBytes a bs, c.1 < n := by
  induction bs generalizing m a with
  | nil => exact hm
  | cons v rest ih =>
    simp only [List.length_cons] at ha
    refine ih _ _ (fun c hc => ?_) (by omega)
    rcases Memory.mem_write m a v c hc with h | h
    · omega
    · exact hm c h

theorem Memory.bound_forgetRange (k : Nat) (m : Memory) (a n : Nat) (hm : ∀ c ∈ m, c.1 < n) :
    ∀ c ∈ m.forgetRange a k, c.1 < n := by
  induction k generalizing m a with
  | zero => exact hm
  | succ k ih => exact ih _ _ fun c hc => hm c (Memory.mem_forget m a c hc)

end Sys2Proof.Machine
end

