-- ==== Sys2Proof/Laws/Packer.lean ====
section
/-! SUPPORT. What the bytes the packer writes hold, bit for bit: the divider bytes (R145), the control bytes of
MSCTL_WR (R150), and a field inserted into a byte (R155). -/

namespace Sys2Proof.Machine

/-- The eight divider bytes put together again give the three fields and the kept bits of +2 (R145). -/
theorem dividerBytes_spec (p1 : BitVec 18) (p2 p3 : BitVec 20) (top : BitVec 6) :
    ∃ b0 b1 b2 b3 b4 b5 b6 b7 : Byte,
      dividerBytes p1 p2 p3 top = [b0, b1, b2, b3, b4, b5, b6, b7] ∧
      b2.toNat / 4 = top.toNat ∧
      b2.toNat % 4 * 65536 + b3.toNat * 256 + b4.toNat = p1.toNat ∧
      b5.toNat % 16 * 65536 + b6.toNat * 256 + b7.toNat = p2.toNat ∧
      b5.toNat / 16 * 65536 + b0.toNat * 256 + b1.toNat = p3.toNat := by
  refine ⟨_, _, _, _, _, _, _, _, rfl, ?_⟩
  have h1 := p1.isLt
  have h2 := p2.isLt
  have h3 := p3.isLt
  have h4 := top.isLt
  simp only [BitVec.toNat_append, BitVec.extractLsb'_toNat, Nat.shiftLeft_eq, Nat.shiftRight_eq_div_pow]
  rw [← Nat.shiftLeft_eq, ← Nat.shiftLeft_eq, ← Nat.shiftLeft_add_eq_or_of_lt (by omega),
    ← Nat.shiftLeft_add_eq_or_of_lt (by omega)]
  simp only [Nat.shiftLeft_eq]
  omega

theorem dividerBytes_length (p1 : BitVec 18) (p2 p3 : BitVec 20) (top : BitVec 6) :
    (dividerBytes p1 p2 p3 top).length = 8 := rfl

/-- The byte at +2 that MSCTL_WR writes (R149, R150). -/
theorem msctlByte_getLsbD (v : Byte) (k : BitVec 3) (d : Bool) (j : Nat) (hj : j < 8) :
    (msctlByte v k d).getLsbD j =
      if 4 ≤ j ∧ j ≤ 6 then k.getLsbD (j - 4) else if 2 ≤ j ∧ j ≤ 3 then d else v.getLsbD j := by
  interval_cases j <;> cases d <;> simp [msctlByte]

/-- The channel control byte that MSCTL_WR writes (R150). -/
theorem intModeByte_getLsbD (u : Byte) (d : Bool) (j : Nat) (hj : j < 8) :
    (intModeByte u d).getLsbD j = if j = 6 then d else u.getLsbD j := by
  interval_cases j <;> cases d <;> simp [intModeByte]

/-- Byte 92 after MSCTL_WR of channel 6 (R150). -/
theorem rdiv6Byte_getLsbD (v : Byte) (k : BitVec 3) (j : Nat) (hj : j < 8) :
    (rdiv6Byte v k).getLsbD j = if j < 3 then k.getLsbD j else v.getLsbD j := by
  interval_cases j <;> simp [rdiv6Byte]

/-- Byte 92 after MSCTL_WR of channel 7 (R150). -/
theorem rdiv7Byte_getLsbD (v : Byte) (k : BitVec 3) (j : Nat) (hj : j < 8) :
    (rdiv7Byte v k).getLsbD j = if 4 ≤ j ∧ j < 7 then k.getLsbD (j - 4) else v.getLsbD j := by
  interval_cases j <;> simp [rdiv7Byte]

/-- A field inserted into a byte holds the value, and every other bit is as it was (R155). -/
theorem insertField_getLsbD (v imm : Byte) (lsb width : Nat) (hi : imm.toNat < 2 ^ width) (j : Nat)
    (hj : j < 8) :
    (insertField v lsb width imm).getLsbD j =
      if lsb ≤ j ∧ j < lsb + width then imm.getLsbD (j - lsb) else v.getLsbD j := by
  simp only [insertField, BitVec.getLsbD_or, BitVec.getLsbD_and, BitVec.getLsbD_not,
    BitVec.getLsbD_shiftLeft, BitVec.getLsbD_ofNat, Nat.testBit_two_pow_sub_one]
  have himm : ∀ k, width ≤ k → imm.getLsbD k = false := by
    intro k hk
    rw [← BitVec.testBit_toNat]
    exact Nat.testBit_lt_two_pow (Nat.lt_of_lt_of_le hi (Nat.pow_le_pow_right (by decide) hk))
  by_cases h1 : lsb ≤ j
  · have h0 : ¬ j < lsb := by omega
    have h8 : j - lsb < 8 := by omega
    by_cases h3 : j < lsb + width
    · have h2 : j - lsb < width := by omega
      simp [h0, h1, h2, h3, h8, hj]
    · have h2 : ¬ (j - lsb < width) := by omega
      have h4 := himm (j - lsb) (by omega)
      rw [BitVec.getLsbD_eq_getElem h8] at h4
      simp [h0, h1, h2, h3, h8, hj, h4]
  · have h0 : j < lsb := by omega
    simp [h0, h1, hj]

/-- Every control field lies inside one byte of the 256 (R46, R156). -/
theorem fieldTable_fits (f : Field) (ch : Channel) :
    (fieldTable f ch).lsb + (fieldTable f ch).width ≤ 8 ∧ (fieldTable f ch).addr < 256 := by
  cases f <;> revert ch <;> decide

end Sys2Proof.Machine
end

