-- ==== Sys2Proof/Laws/PerInstr.lean ====
section
/-! SUPPORT. One lemma per command: the word the encoder writes for a well-formed command matches the
command's row of the opcode map (R77). -/

namespace Sys2Proof.Laws.EncodedRow

/-- The encoded word of a well-formed command matches its row. -/
def Statement (i : Instr) : Prop := i.WellFormed → i.row.Matches (encode i)

theorem nop : Statement .nop := by intro _; decide
theorem pllCalc : Statement .pllCalc := by intro _; decide
theorem pllCalcVcxo : Statement .pllCalcVcxo := by intro _; decide
theorem msCalc : Statement .msCalc := by intro _; decide
theorem ms67Calc : Statement .ms67Calc := by intro _; decide
theorem rdivSel : Statement .rdivSel := by intro _; decide
theorem rdiv67Sel : Statement .rdiv67Sel := by intro _; decide
theorem packPll (p : Pll) : Statement (.packPll p) := by intro _; cases p <;> decide
theorem packMs (ch : Channel) : Statement (.packMs ch) := by intro _; revert ch; decide
theorem packMs67 (ch : Channel) : Statement (.packMs67 ch) := by revert ch; unfold Statement; decide
theorem msctlWr (ch : Channel) : Statement (.msctlWr ch) := by intro _; revert ch; decide
theorem fieldWr (f : Field) (ch : Channel) (imm : Byte) : Statement (.fieldWr f ch imm) := by
  intro _
  have h : ∀ (fl : BitVec 5) (c : BitVec 3),
      (Fields.toWord ⟨0x0C, c, 0, fl, imm, 0⟩) &&& 0xFF00063F#32 = 0x0000000C#32 := by
    intro fl c
    ext i hi
    simp only [Fields.toWord, BitVec.getElem_and, BitVec.getElem_append]
    interval_cases i <;> simp
  exact h f.id (BitVec.ofFin ch)
theorem pllRst (resetA resetB : Bool) : Statement (.pllRst resetA resetB) := by
  intro _; revert resetA resetB; decide
theorem packVcxo : Statement .packVcxo := by intro _; decide
theorem statusRd : Statement .statusRd := by intro _; decide

end Sys2Proof.Laws.EncodedRow
end

