-- ==== Sys2Proof/Laws/Script.lean ====
section
/-! SUPPORT. What a script can do when the engine runs it, said once: its equations for each reply, what it
never touches, how it ends, and how it is taken up again. -/

namespace Sys2Proof.Machine

/-! ## Equations -/

@[simp] theorem after_zero (p : Script) : p.after 0 [] = some p := by cases p <;> rfl

@[simp] theorem resume_fresh (p : Script) : p.resume Flight.fresh = p := by
  simp [Script.resume, Flight.fresh]

theorem resume_of_after {p q : Script} {f : Flight} (h : p.after f.position f.held = some q) :
    p.resume f = q := by simp [Script.resume, h]

@[simp] theorem run_finish (ws : List (Reg × Int)) (s : State) :
    (Script.finish ws).run s = completeCommand (s.writeRegs ws) := rfl

@[simp] theorem run_raise (c : Cause) (s : State) : (Script.raise c).run s = enterError c s := rfl

theorem run_readByte_returns (a : Nat) (k : Byte → Script) (s : State) (b : Byte)
    (h : s.replyAt 0 = .returns b) :
    (Script.readByte a k).run s = (k b).run (readCompleted a b s.dropReply) := by
  simp [Script.run, h]

theorem run_writeByte_returns (a : Nat) (v : Byte) (k : Script) (s : State) (b : Byte)
    (h : s.replyAt 0 = .returns b) :
    (Script.writeByte a v k).run s = k.run (writeCompleted (.writeByte a v) s.dropReply) := by
  simp [Script.run, h]

theorem run_writeBulk_returns (a : Nat) (bs : List Byte) (k : Script) (s : State) (b : Byte)
    (h : s.replyAt 0 = .returns b) :
    (Script.writeBulk a bs k).run s = k.run (writeCompleted (.writeBulk a bs) s.dropReply) := by
  simp [Script.run, h]

theorem run_fails (p : Script) (r : Request) (s : State) (hp : p.request = some r)
    (h : s.replyAt 0 = .fails) : p.run s = transactionFailed r s.dropReply := by
  cases p <;> simp_all [Script.request, Script.run]

theorem run_silent (p : Script) (r : Request) (s : State) (hp : p.request = some r)
    (h : s.replyAt 0 = .silent) : p.run s = awaitPort r s.dropReply := by
  cases p <;> simp_all [Script.request, Script.run]

/-! ## Commands as scripts -/

/-- A script without transactions is taken up as it is, whatever the hidden state. -/
theorem resume_finish (ws : List (Reg × Int)) (f : Flight) :
    (Script.finish ws).resume f = .finish ws := by
  obtain ⟨n, held, _⟩ := f
  cases n <;> cases held <;> rfl

theorem resume_raise (c : Cause) (f : Flight) : (Script.raise c).resume f = .raise c := by
  obtain ⟨n, held, _⟩ := f
  cases n <;> cases held <;> rfl

/-- A turn of the engine on a command is its script, taken up where the command stands. -/
theorem exec_eq (i : Instr) (s : State) :
    exec i s = .next (((script i s).resume s.currentFlight).run s) := by cases i <;> rfl

/-- A turn on a command just accepted runs its whole script. -/
theorem exec_starting (i : Instr) (s : State) (h : s.flight = some Flight.fresh) :
    exec i s = .next ((script i s).run s) := by
  rw [exec_eq, currentFlight_of_some s _ h, resume_fresh]

/-! ## Where a script stands -/

@[simp] theorem dropReply_currentFlight (s : State) : s.dropReply.currentFlight = s.currentFlight := rfl

/-- After one more read a script stands at its continuation for the byte read. -/
theorem after_read (p : Script) (n : Nat) (held : List Byte) (a : Nat) (k : Byte → Script) (b : Byte)
    (h : p.after n held = some (.readByte a k)) : p.after (n + 1) (held ++ [b]) = some (k b) := by
  induction p generalizing n held with
  | finish ws => cases n <;> cases held <;> simp [Script.after] at h
  | raise c => cases n <;> cases held <;> simp [Script.after] at h
  | readByte a' k' ih =>
    cases n with
    | zero =>
      cases held with
      | nil =>
        simp [Script.after] at h
        obtain ⟨rfl, rfl⟩ := h
        simp [Script.after]
      | cons c rest => simp [Script.after] at h
    | succ m =>
      cases held with
      | nil => simp [Script.after] at h
      | cons c rest =>
        simp only [Script.after] at h
        simpa [Script.after] using ih c m rest h
  | writeByte a' v' k' ih =>
    cases n with
    | zero => cases held <;> simp [Script.after] at h
    | succ m => simp only [Script.after] at h ⊢; exact ih m held h
  | writeBulk a' v' k' ih =>
    cases n with
    | zero => cases held <;> simp [Script.after] at h
    | succ m => simp only [Script.after] at h ⊢; exact ih m held h

/-- After one more write a script stands at its continuation. -/
theorem after_write (p : Script) (n : Nat) (held : List Byte) (q k : Script)
    (hq : (∃ a v, q = .writeByte a v k) ∨ ∃ a bs, q = .writeBulk a bs k)
    (h : p.after n held = some q) : p.after (n + 1) held = some k := by
  induction p generalizing n held with
  | finish ws =>
    rcases hq with ⟨a, v, rfl⟩ | ⟨a, v, rfl⟩ <;> cases n <;> cases held <;> simp [Script.after] at h
  | raise c =>
    rcases hq with ⟨a, v, rfl⟩ | ⟨a, v, rfl⟩ <;> cases n <;> cases held <;> simp [Script.after] at h
  | readByte a' k' ih =>
    cases n with
    | zero =>
      rcases hq with ⟨a, v, rfl⟩ | ⟨a, v, rfl⟩ <;> cases held <;> simp [Script.after] at h
    | succ m =>
      cases held with
      | nil => simp [Script.after] at h
      | cons c rest => simp only [Script.after] at h ⊢; exact ih c m rest h
  | writeByte a' v' k' ih =>
    cases n with
    | zero =>
      rcases hq with ⟨a, v, rfl⟩ | ⟨a, v, rfl⟩ <;> cases held <;> simp [Script.after] at h ⊢
      simp [h]
    | succ m => simp only [Script.after] at h ⊢; exact ih m held h
  | writeBulk a' v' k' ih =>
    cases n with
    | zero =>
      rcases hq with ⟨a, v, rfl⟩ | ⟨a, v, rfl⟩ <;> cases held <;> simp [Script.after] at h ⊢
      simp [h]
    | succ m => simp only [Script.after] at h ⊢; exact ih m held h

/-- A run that waits stands in the whole script right after its completed transactions, and the transaction
outstanding is the one issued next there (R38). -/
theorem run_waits_at (p q : Script) (s : State) (f : Flight)
    (hq : p.after s.currentFlight.position s.currentFlight.held = some q)
    (hf : (q.run s).flight = some f) :
    ∃ q' r, p.after f.position f.held = some q' ∧ q'.request = some r ∧ f.outstanding = some r := by
  induction q generalizing s with
  | finish ws => simp at hf
  | raise c => simp at hf
  | readByte a k ih =>
    simp only [Script.run] at hf
    split at hf
    · rename_i b _
      exact ih b _ (by simpa using after_read p _ _ a k b hq) hf
    · simp at hf
    · simp at hf; subst hf
      exact ⟨_, _, hq, rfl, rfl⟩
  | writeByte a v k ih =>
    simp only [Script.run] at hf
    split at hf
    · exact ih _ (by simpa using after_write p _ _ _ k (.inl ⟨_, _, rfl⟩) hq) hf
    · simp at hf
    · simp at hf; subst hf
      exact ⟨_, _, hq, rfl, rfl⟩
  | writeBulk a v k ih =>
    simp only [Script.run] at hf
    split at hf
    · exact ih _ (by simpa using after_write p _ _ _ k (.inr ⟨_, _, rfl⟩) hq) hf
    · simp at hf
    · simp at hf; subst hf
      exact ⟨_, _, hq, rfl, rfl⟩

/-- A script reads the engine registers and the parameters only (R90, R110, R120, R135, R172). -/
theorem script_congr (i : Instr) (s t : State) (hr : s.regs = t.regs) (hc : s.cfg = t.cfg) :
    script i s = script i t := by
  cases i <;>
    simp [script, scriptPllCalc, scriptPllCalcVcxo, pllScript, scriptMsCalc, scriptMs67Calc, scriptRdivSel,
      scriptRdiv67Sel, rdivScript, scriptPackPll, scriptPackMs, scriptPackMs67, scriptMsctlWr,
      scriptPackVcxo, State.ux, State.corr, State.x, State.p1Field, State.p2Field, State.p3Field,
      State.aByte, State.rdivCode, State.divBy4Flag, State.intModeFlag, State.vxpField, hr, hc]

/-! ## What no script touches -/

/-- The fields a running script leaves alone. -/
structure Untouched (s t : State) : Prop where
  cmd : t.cmd = s.cmd
  cfg : t.cfg = s.cfg
  host : t.host = s.host
  turns : t.turns = s.turns
  turnDraws : t.turnDraws = s.turnDraws
  hostReads : t.hostReads = s.hostReads

theorem Untouched.rfl (s : State) : Untouched s s := ⟨.refl _, .refl _, .refl _, .refl _, .refl _, .refl _⟩

theorem Untouched.trans {s t u : State} (h : Untouched s t) (g : Untouched t u) : Untouched s u :=
  ⟨g.cmd.trans h.cmd, g.cfg.trans h.cfg, g.host.trans h.host, g.turns.trans h.turns,
    g.turnDraws.trans h.turnDraws, g.hostReads.trans h.hostReads⟩

theorem run_untouched (p : Script) (s : State) : Untouched s (p.run s) := by
  induction p generalizing s with
  | finish ws => constructor <;> simp
  | raise c => constructor <;> simp
  | readByte a k ih =>
    simp only [Script.run]
    split
    · exact Untouched.trans (by constructor <;> simp) (ih _ _)
    · constructor <;> simp
    · constructor <;> simp
  | writeByte a v k ih =>
    simp only [Script.run]
    split
    · exact Untouched.trans (by constructor <;> simp) (ih _)
    · constructor <;> simp
    · constructor <;> simp
  | writeBulk a bs k ih =>
    simp only [Script.run]
    split
    · exact Untouched.trans (by constructor <;> simp) (ih _)
    · constructor <;> simp
    · constructor <;> simp

/-! ## How a script ends -/

/-- The command has ended: BUSY = 0, ci one higher. -/
abbrev EndedFrom (s t : State) : Prop := t.flight = none ∧ t.ci = s.ci + 1

/-- The command waits on the Register Port: BUSY = 1, nothing but the hidden state, the draws, the trace
and the device bytes moved. -/
structure WaitingFrom (s t : State) : Prop where
  waits : ∃ n h r, t.flight = some ⟨n, h, some r⟩
  regs : t.regs = s.regs
  errCause : t.errCause = s.errCause
  errCmd : t.errCmd = s.errCmd
  ci : t.ci = s.ci

theorem run_ends (p : Script) (s : State) : EndedFrom s (p.run s) ∨ WaitingFrom s (p.run s) := by
  induction p generalizing s with
  | finish ws => left; simp [EndedFrom]
  | raise c => left; simp [EndedFrom]
  | readByte a k ih =>
    simp only [Script.run]
    split
    · rename_i b _
      rcases ih b (readCompleted a b s.dropReply) with h | h
      · exact .inl (by simpa [EndedFrom] using h)
      · exact .inr ⟨h.waits, by simpa using h.regs, by simpa using h.errCause, by simpa using h.errCmd, by simpa using h.ci⟩
    · left; simp [EndedFrom]
    · right; exact ⟨⟨_, _, _, awaitPort_flight _ _⟩, by simp, by simp, by simp, by simp⟩
  | writeByte a v k ih =>
    simp only [Script.run]
    split
    · rcases ih (writeCompleted (.writeByte a v) s.dropReply) with h | h
      · exact .inl (by simpa [EndedFrom] using h)
      · exact .inr ⟨h.waits, by simpa using h.regs, by simpa using h.errCause, by simpa using h.errCmd, by simpa using h.ci⟩
    · left; simp [EndedFrom]
    · right; exact ⟨⟨_, _, _, awaitPort_flight _ _⟩, by simp, by simp, by simp, by simp⟩
  | writeBulk a bs k ih =>
    simp only [Script.run]
    split
    · rcases ih (writeCompleted (.writeBulk a bs) s.dropReply) with h | h
      · exact .inl (by simpa [EndedFrom] using h)
      · exact .inr ⟨h.waits, by simpa using h.regs, by simpa using h.errCause, by simpa using h.errCmd, by simpa using h.ci⟩
    · left; simp [EndedFrom]
    · right; exact ⟨⟨_, _, _, awaitPort_flight _ _⟩, by simp, by simp, by simp, by simp⟩

/-- A script only adds to the record of transactions. -/
theorem run_trace (p : Script) (s : State) : ∃ new, (p.run s).trace = s.trace ++ new := by
  induction p generalizing s with
  | finish ws => exact ⟨[], by simp⟩
  | raise c => exact ⟨[], by simp⟩
  | readByte a k ih =>
    simp only [Script.run]
    split
    · rename_i b _
      obtain ⟨new, h⟩ := ih b (readCompleted a b s.dropReply)
      exact ⟨_, by rw [h, readCompleted_trace, dropReply_trace, List.append_assoc]⟩
    · exact ⟨_, by rw [transactionFailed_trace, dropReply_trace]⟩
    · exact ⟨[], by simp⟩
  | writeByte a v k ih =>
    simp only [Script.run]
    split
    · obtain ⟨new, h⟩ := ih (writeCompleted (.writeByte a v) s.dropReply)
      exact ⟨_, by rw [h, writeCompleted_trace, dropReply_trace, List.append_assoc]⟩
    · exact ⟨_, by rw [transactionFailed_trace, dropReply_trace]⟩
    · exact ⟨[], by simp⟩
  | writeBulk a bs k ih =>
    simp only [Script.run]
    split
    · obtain ⟨new, h⟩ := ih (writeCompleted (.writeBulk a bs) s.dropReply)
      exact ⟨_, by rw [h, writeCompleted_trace, dropReply_trace, List.append_assoc]⟩
    · exact ⟨_, by rw [transactionFailed_trace, dropReply_trace]⟩
    · exact ⟨[], by simp⟩

/-- Device bytes stay in canonical form. -/
theorem run_written_wf (p : Script) (s : State) (h : s.written.wf) : (p.run s).written.wf := by
  induction p generalizing s with
  | finish ws => simpa using h
  | raise c => simpa using h
  | readByte a k ih =>
    simp only [Script.run]
    split
    · exact ih _ _ (by simpa using h)
    · simpa using Memory.wf_forgetRange _ _ h _
    · simpa using h
  | writeByte a v k ih =>
    simp only [Script.run]
    split
    · exact ih _ (by simpa using Memory.wf_writeBytes _ _ h _)
    · simpa using Memory.wf_forgetRange _ _ h _
    · simpa using h
  | writeBulk a bs k ih =>
    simp only [Script.run]
    split
    · exact ih _ (by simpa using Memory.wf_writeBytes _ _ h _)
    · simpa using Memory.wf_forgetRange _ _ h _
    · simpa using h

/-- What is known of the device after a turn of a script, from the transactions that turn adds to the record: a
completed one has written its bytes, a failed one has made its bytes unknown (R53, R55, R192). -/
theorem run_written (p : Script) (s : State) :
    ∃ new, (p.run s).trace = s.trace ++ new ∧
      (p.run s).written = new.foldl
        (fun m x =>
          if x.outcome = .failed then m.forgetRange x.request.addr x.request.payload.length
          else m.writeBytes x.request.addr x.request.payload)
        s.written := by
  induction p generalizing s with
  | finish ws => exact ⟨[], by simp, by simp⟩
  | raise c => exact ⟨[], by simp, by simp⟩
  | readByte a k ih =>
    simp only [Script.run]
    split
    · rename_i b _
      obtain ⟨new, h, g⟩ := ih b (readCompleted a b s.dropReply)
      exact ⟨⟨.readByte a, .byte b⟩ :: new, by simp [h], by simp [g, Request.payload, Memory.writeBytes]⟩
    · exact ⟨[⟨.readByte a, .failed⟩], by simp, by simp⟩
    · exact ⟨[], by simp, by simp⟩
  | writeByte a v k ih =>
    simp only [Script.run]
    split
    · obtain ⟨new, h, g⟩ := ih (writeCompleted (.writeByte a v) s.dropReply)
      exact ⟨⟨.writeByte a v, .done⟩ :: new, by simp [h], by simp [g]⟩
    · exact ⟨[⟨.writeByte a v, .failed⟩], by simp, by simp⟩
    · exact ⟨[], by simp, by simp⟩
  | writeBulk a bs k ih =>
    simp only [Script.run]
    split
    · obtain ⟨new, h, g⟩ := ih (writeCompleted (.writeBulk a bs) s.dropReply)
      exact ⟨⟨.writeBulk a bs, .done⟩ :: new, by simp [h], by simp [g]⟩
    · exact ⟨[⟨.writeBulk a bs, .failed⟩], by simp, by simp⟩
    · exact ⟨[], by simp, by simp⟩

/-- A script raises at most one error, and then the log of the run ends with it (R197, R199). -/
theorem run_errorLog (p : Script) (s : State) :
    ((p.run s).errorLog = s.errorLog ∧ (p.run s).errCause = s.errCause) ∨
      ∃ c : Cause, (p.run s).errorLog = s.errorLog ++ [⟨c.code, s.cmd⟩] ∧ (p.run s).errCause = c.code := by
  induction p generalizing s with
  | finish ws => left; simp
  | raise c => right; exact ⟨c, by simp⟩
  | readByte a k ih =>
    simp only [Script.run]
    split
    · simpa using ih _ (readCompleted a _ s.dropReply)
    · right; exact ⟨.transport, by simp⟩
    · left; simp
  | writeByte a v k ih =>
    simp only [Script.run]
    split
    · simpa using ih (writeCompleted (.writeByte a v) s.dropReply)
    · right; exact ⟨.transport, by simp⟩
    · left; simp
  | writeBulk a bs k ih =>
    simp only [Script.run]
    split
    · simpa using ih (writeCompleted (.writeBulk a bs) s.dropReply)
    · right; exact ⟨.transport, by simp⟩
    · left; simp

end Sys2Proof.Machine
end

