-- ==== Sys2Proof/Tests/Slice0.lean ====
section
/-! SUPPORT. Tests of the model. Expected values are those of 95_test_vectors.md (the vector's id stands in each
name or comment) or worked out by hand from the rule named; then a witness for the hypotheses of each
statement. -/

namespace Sys2Proof.Tests

open Sys2Proof Sys2Proof.Machine Sys2Proof.Safety

/-! ## Helpers -/

/-- The state an outcome holds; the state after reset for a stop, which no test below expects. -/
def resultOf (o : Host.Outcome State Fault Refusal) : State :=
  match o with
  | .next t => t
  | .fault _ => State.reset
  | .refused _ => State.reset

/-- Whether an outcome is the refusal `r`. -/
def refusedWith (o : Host.Outcome State Fault Refusal) (r : Refusal) : Bool :=
  match o with
  | .next _ => false
  | .fault _ => false
  | .refused q => decide (q = r)

/-- A command word just accepted, the engine to move, with engine registers and replies. -/
def running (w : CmdWord) (regs : Regs) (replies : List Reply) : State :=
  { State.reset with
    regs := regs
    cmd := w
    flight := some Flight.fresh
    turns := [0]
    replies := replies }

/-- The state after one step of an accepted command. -/
def ran (w : CmdWord) (regs : Regs) (replies : List Reply) : State := resultOf (step (running w regs replies))

/-- The engine free, the host about to act. -/
def idle (host : List HostAction) : State := { State.reset with host := host }

/-- An error pending (ERRCAUSE = 4 from PACK_MS CLK0), the engine free. -/
def errored (host : List HostAction) : State :=
  { idle host with errCause := 4, errCmd := 0x9, errorLog := [⟨4, 0x9⟩], cmd := 0x9, ci := 1 }

/-- STATUS_RD waiting for its first reply, the host to move. -/
def waiting (host : List HostAction) : State :=
  { State.reset with
    cmd := 0x10
    flight := some ⟨0, [], some (.readByte 0)⟩
    turns := [1]
    host := host }

/-- A write completed. -/
abbrev ok : Reply := .returns 0

/-- Registers with given FREQ and PLLF. -/
def freqPll (freq pll : Word) : Regs := { Regs.zero with freq := freq, pllf := pll }

/-- Registers with given PLLF, REF and CORR. -/
def pllRef (pll ref corr : Word) : Regs := { Regs.zero with pllf := pll, ref := ref, corr := corr }

/-- Registers with given P1, P2 and P3. -/
def fields (p1 p2 p3 : Word) : Regs := { Regs.zero with p1 := p1, p2 := p2, p3 := p3 }

/-! ## WellFormed: an ill-formed term for each check, refused -/

theorem test_wf_packMs_channel : (Instr.packMs 6).wf = false ∧ (Instr.packMs 5).wf = true := by decide
theorem test_wf_packMs67_channel : (Instr.packMs67 5).wf = false ∧ (Instr.packMs67 6).wf = true := by decide
theorem test_wf_fieldWr_channel :
    (Instr.fieldWr .phase 6 0).wf = false ∧ (Instr.fieldWr .xtalCl 1 0).wf = false ∧
      (Instr.fieldWr .divby4 6 0).wf = false ∧ (Instr.fieldWr .rdiv 7 0).wf = true := by decide
theorem test_wf_fieldWr_immediate :
    (Instr.fieldWr .oeb 0 2).wf = false ∧ (Instr.fieldWr .phase 5 128).wf = false ∧
      (Instr.fieldWr .phase 5 127).wf = true := by decide
theorem test_wf_pllRst_mask : (Instr.pllRst false false).wf = false ∧ (Instr.pllRst false true).wf = true := by
  decide

/-! ## Decode: a word of every command written out from R70's fields RSV IMM FLD PS CH OP -/

theorem test_decode_nop : decode 0b00000000_00000000_00000_00_000_000000 = .ok .nop := by decide
theorem test_decode_pllCalc : decode 0b00000000_00000000_00000_00_000_000001 = .ok .pllCalc := by decide
theorem test_decode_pllCalcVcxo : decode 0b00000000_00000000_00000_00_000_000010 = .ok .pllCalcVcxo := by
  decide
theorem test_decode_msCalc : decode 0b00000000_00000000_00000_00_000_000011 = .ok .msCalc := by decide
theorem test_decode_ms67Calc : decode 0b00000000_00000000_00000_00_000_000100 = .ok .ms67Calc := by decide
theorem test_decode_rdivSel : decode 0b00000000_00000000_00000_00_000_000101 = .ok .rdivSel := by decide
theorem test_decode_rdiv67Sel : decode 0b00000000_00000000_00000_00_000_000110 = .ok .rdiv67Sel := by decide
theorem test_decode_packPll :
    decode 0b00000000_00000000_00000_00_000_001000 = .ok (.packPll .a) ∧
      decode 0b00000000_00000000_00000_01_000_001000 = .ok (.packPll .b) := by decide
theorem test_decode_packMs :
    decode 0b00000000_00000000_00000_00_000_001001 = .ok (.packMs 0) ∧
      decode 0b00000000_00000000_00000_00_101_001001 = .ok (.packMs 5) := by decide
theorem test_decode_packMs67 :
    decode 0b00000000_00000000_00000_00_110_001010 = .ok (.packMs67 6) ∧
      decode 0b00000000_00000000_00000_00_111_001010 = .ok (.packMs67 7) := by decide
theorem test_decode_msctlWr : decode 0b00000000_00000000_00000_00_111_001011 = .ok (.msctlWr 7) := by decide
theorem test_decode_fieldWr :
    decode 0b00000000_00000011_00110_00_011_001100 = .ok (.fieldWr .drv 3 3) ∧
      decode 0b00000000_01111111_01011_00_001_001100 = .ok (.fieldWr .phase 1 127) ∧
      decode 0b00000000_00000101_10000_00_111_001100 = .ok (.fieldWr .rdiv 7 5) := by decide
theorem test_decode_pllRst :
    decode 0b00000000_00000000_00000_01_000_001101 = .ok (.pllRst true false) ∧
      decode 0b00000000_00000000_00000_10_000_001101 = .ok (.pllRst false true) := by decide
theorem test_decode_packVcxo : decode 0b00000000_00000000_00000_00_000_001110 = .ok .packVcxo := by decide
theorem test_decode_statusRd : decode 0b00000000_00000000_00000_00_000_010000 = .ok .statusRd := by decide

/-- Section 2.12: the illegal words of unassigned OP, RSV, unused fields and PS. -/
theorem test_decode_illegal :
    decode 0x00000007 = .error .unassignedOp ∧ decode 0x0000000F = .error .unassignedOp ∧
      decode 0x00000011 = .error .unassignedOp ∧ decode 0x0000003F = .error .unassignedOp ∧
      decode 0x01000001 = .error .reservedBits ∧ decode 0x00000041 = .error .unusedField ∧
      decode 0x00000201 = .error .unusedField ∧ decode 0x00000801 = .error .unusedField ∧
      decode 0x00010001 = .error .unusedField ∧ decode 0x00000408 = .error .pllSelector ∧
      decode 0x00000189 = .error .channel ∧ decode 0x0000014A = .error .channel ∧
      decode 0x0000000D = .error .pllSelector ∧ decode 0x0000060E = .error .unusedField := by decide

/-- V-FLD-E1, E3 to E9: the illegal FIELD_WR words. -/
theorem test_decode_illegal_fieldWr :
    decode 0x0000900C = .error .fieldId ∧ decode 0x0009000C = .error .immediate ∧
      decode 0x0008800C = .error .immediate ∧ decode 0x0000404C = .error .channel ∧
      decode 0x0000598C = .error .channel ∧ decode 0x0003898C = .error .channel ∧
      decode 0x0000020C = .error .unusedField ∧ decode 0x0080584C = .error .immediate := by decide

/-- The words of V-FLD-05, V-FLD-09, V-FLD-12 and V-FLD-19, encoded. -/
theorem test_encode_fieldWr :
    encode (.fieldWr .pllsel 6 1) = 0x0001198C ∧ encode (.fieldWr .disState 5 2) = 0x0002394C ∧
      encode (.fieldWr .clkinDiv 0 2) = 0x0002500C ∧ encode (.fieldWr .rdiv 6 5) = 0x0005818C := by decide

theorem test_decodeTableWord :
    decodeTableWord 32 0x000330CC = some (.fieldWr .drv 3 3) ∧ decodeTableWord 32 0x7 = none := by decide

/-! ## Assembler text and host programs (R81 to R83) -/

theorem test_asm :
    (Instr.fieldWr .drv 3 3).asm = "FIELD_WR DRV, CLK3, #3" ∧
      (Instr.fieldWr .pllaSrc 0 1).asm = "FIELD_WR PLLA_SRC, #1" ∧
      (Instr.pllRst true true).asm = "PLL_RST AB" ∧ (Instr.packMs67 7).asm = "PACK_MS67 CLK7" ∧
      Instr.statusRd.asm = "STATUS_RD" := by decide

/-- Steps 7 and 8 of program P1. -/
theorem test_pseudo :
    (expandPseudo (.pllSel 0 .a)).map encode = [0x0000180C] ∧
      (expandPseudo (.oeOn 0)).map encode = [0x0000000C] ∧
      (expandPseudo (.setMs 0)).map encode = [0x00000009, 0x0000000B] := by decide

/-- HWR FREQ, HWR CORR with a negative value, HCLR, and a command line (conventions of part 3, R82). -/
theorem test_host_actions :
    hwr .freq 10000000 = .write 0x080 10000000 ∧ hwr .corr (-1000) = .write 0x098 0xFFFFFFFFFFFFFC18 ∧
      hclr = .write 0x010 0 ∧ commandActions .rdivSel = [.waitIdle, .write 0x000 5] := by decide

/-! ## One step of each command -/

/-- V-NOP-01, with no command's other effect. -/
theorem test_nop : ran 0 Regs.zero [] = { State.reset with ci := 1, turnDraws := 1 } := by decide

/-- V-PLL-02. -/
theorem test_pllCalc_corrected :
    (ran 0x1 (pllRef 80000000000 2500000000 1000) []).regs =
      { pllRef 80000000000 2500000000 1000 with
        a := 31, b := 999968, c := 1000000, p1 := 3583, p2 := 995904, p3 := 1000000
        rf := 79999999999, refc := 2500002500, flags := 1 } := by decide

/-- V-PLL-03, under CORR_MODE = FIXED31. -/
theorem test_pllCalc_fixed31 :
    (resultOf (step
      { running 0x1 (pllRef 80000000000 2500000000 1000) [] with
        cfg := { Params.default with corrMode := .fixed31 } })).regs =
      { pllRef 80000000000 2500000000 1000 with
        a := 31, b := 999968, c := 1000000, p1 := 3583, p2 := 995904, p3 := 1000000
        rf := 79999999967, refc := 2500002499, flags := 1 } := by decide

/-- V-VCXO-04: OVF, P1 = -256. -/
theorem test_pllCalcVcxo_overflow :
    (ran 0x2 (pllRef 80000000000 30000000000 0) []).regs =
      { pllRef 80000000000 30000000000 0 with
        a := 2, b := 0, c := 1, p1 := 0xFFFFFFFFFFFFFF00, p2 := 0, p3 := 1
        rf := 256000000, refc := 30000000000, flags := 9 } := by decide

/-- V-PLL-E3, as the VCXO command: CORR = -2^31 with bits 63:32 zero. -/
theorem test_pllCalcVcxo_bad_reference :
    let t := ran 0x2 (pllRef 80000000000 2500000000 0x80000000) []
    t.errCause = 2 ∧ t.errCmd = 2 ∧ t.regs = pllRef 80000000000 2500000000 0x80000000 ∧ t.ci = 1 ∧
      t.busy = false := by decide

/-- V-MS-04: free mode, 7 becomes 6. -/
theorem test_msCalc_free_substitution :
    let r := (ran 0x3 (freqPll 11300000000 0) []).regs
    r.a = 6 ∧ r.c = 1 ∧ r.p1 = 256 ∧ r.rf = 67800000000 ∧ r.flags = 0x11 ∧ r.freq = 11300000000 := by
  refine ⟨?_, ?_, ?_, ?_, ?_, ?_⟩ <;> decide

/-- V-MS-26: locked mode, a > 1800 kept, OVF. -/
theorem test_msCalc_locked_overflow :
    let r := (ran 0x3 (freqPll 50000000 200000000000) []).regs
    r.a = 4000 ∧ r.b = 1 ∧ r.p1 = 511488 ∧ r.p2 = 128 ∧ r.p3 = 1000000 ∧ r.rf = 111111111 ∧
      r.flags = 0x09 := by
  refine ⟨?_, ?_, ?_, ?_, ?_, ?_, ?_⟩ <;> decide

/-- V-MS67-09: the +2 step to 256, OVF. -/
theorem test_ms67Calc_free_step :
    (ran 0x4 (freqPll 236211200 0) []).regs =
      { freqPll 236211200 0 with a := 256, b := 0, c := 1, rf := 60470067200, flags := 0x19 } := by decide

/-- V-MS67-17: not ok, A, B and C kept. -/
theorem test_ms67Calc_not_ok :
    (ran 0x4 { freqPll 700000000 80000000000 with a := 32, b := 7, c := 9, rf := 5, flags := 1 } []).regs =
      { freqPll 700000000 80000000000 with a := 32, b := 7, c := 9 } := by decide

/-- V-RDIV-04 and V-RDIV-10: the top of the first and of the last band. -/
theorem test_rdivSel_bands :
    (ran 0x5 (freqPll 799999 0) []).regs = { freqPll 102399872 0 with rdiv := 7 } ∧
      (ran 0x5 (freqPll 51199999 0) []).regs = { freqPll 102399998 0 with rdiv := 1 } := by decide

/-- V-RDIV-02 and V-RDIV-11: below and above every band. -/
theorem test_rdivSel_outside :
    (ran 0x5 { freqPll 399999 0 with rdiv := 5 } []).regs = freqPll 399999 0 ∧
      (ran 0x5 { freqPll 51200000 0 with rdiv := 5 } []).regs = freqPll 51200000 0 := by decide

/-- V-RDIV67-03 and V-RDIV67-06. -/
theorem test_rdiv67Sel :
    (ran 0x6 (freqPll 3690800 0) []).regs = { freqPll 236211200 0 with rdiv := 6 } ∧
      (ran 0x6 (freqPll 236211200 0) []).regs = freqPll 236211200 0 := by decide

/-- V-PACK-02. -/
theorem test_packPll_b :
    (ran 0x208 (fields 3583 995904 1000000) [ok]).trace =
      [⟨.writeBulk 34 [0x42, 0x40, 0x00, 0x0D, 0xFF, 0xFF, 0x32, 0x40], .done⟩] := by decide

/-- V-PACK-04: a negative P1. -/
theorem test_packPll_negative :
    (ran 0x8 (fields 0xFFFFFFFFFFFFFF00 0 1) [ok]).trace =
      [⟨.writeBulk 26 [0x00, 0x01, 0x03, 0xFF, 0x00, 0x00, 0x00, 0x00], .done⟩] := by decide

/-- V-PACK-07. -/
theorem test_packMs :
    (ran 0x89 (fields 0xFFFFFFFFFFFFFF80 0 1) [.returns 0xFF, ok]).trace =
      [⟨.readByte 60, .byte 0xFF⟩,
        ⟨.writeBulk 58 [0x00, 0x01, 0xFF, 0xFF, 0x80, 0x00, 0x00, 0x00], .done⟩] := by decide

/-- V-ERR-05: the bulk write fails, and the byte known at 44 is known no more. -/
theorem test_packMs_write_fails :
    let t := resultOf (step { running 0x9 (fields 14116 571392 1000000) [.returns 0, .fails] with
      written := [(41, 1), (44, 2), (50, 3)] })
    t.errCause = 4 ∧ t.errCmd = 9 ∧ t.written = [(41, 1), (50, 3)] ∧ t.busy = false := by decide

/-- V-PACK-09. -/
theorem test_packMs67 :
    (ran 0x1CA { Regs.zero with a := 160 } [ok]).trace = [⟨.writeByte 91 0xA0, .done⟩] := by decide

/-- V-PACK-10: A = 256 writes 0. -/
theorem test_packMs67_overflow :
    (ran 0x1CA { Regs.zero with a := 256 } [ok]).written = [(91, 0x00)] := by decide

/-- V-MSCTL-02. -/
theorem test_msctlWr_divBy4 :
    (ran 0xB { Regs.zero with flags := 0x17 } [.returns 0x80, ok, .returns 0x0F, ok]).trace =
      [⟨.readByte 44, .byte 0x80⟩, ⟨.writeByte 44 0x8C, .done⟩, ⟨.readByte 16, .byte 0x0F⟩,
        ⟨.writeByte 16 0x4F, .done⟩] := by decide

/-- V-MSCTL-04 and V-MSCTL-05: channels 6 and 7 share byte 92. -/
theorem test_msctlWr_channels67 :
    (ran 0x18B { Regs.zero with rdiv := 3, flags := 6 } [.returns 0xF7, ok]).trace =
        [⟨.readByte 92, .byte 0xF7⟩, ⟨.writeByte 92 0xF3, .done⟩] ∧
      (ran 0x1CB { Regs.zero with rdiv := 7 } [.returns 0x05, ok]).trace =
        [⟨.readByte 92, .byte 0x05⟩, ⟨.writeByte 92 0x75, .done⟩] := by decide

/-- V-FLD-02, V-FLD-09 and V-FLD-13. -/
theorem test_fieldWr_channels :
    (ran 0x000101CC Regs.zero [.returns 0x00, ok]).written = [(3, 0x80)] ∧
      (ran 0x0002394C Regs.zero [.returns 0xFF, ok]).written = [(25, 0xFB)] ∧
      (ran 0x007F584C Regs.zero [.returns 0x80, ok]).written = [(166, 0xFF)] := by decide

/-- V-FLD-12, V-FLD-16, V-FLD-19 and V-FLD-21. -/
theorem test_fieldWr_shared_bytes :
    (ran 0x0002500C Regs.zero [.returns 0x0C, ok]).written = [(15, 0x8C)] ∧
      (ran 0x0001700C Regs.zero [.returns 0xC0, ok]).written = [(187, 0xD0)] ∧
      (ran 0x0005818C Regs.zero [.returns 0x53, ok]).written = [(92, 0x55)] ∧
      (ran 0x0003888C Regs.zero [.returns 0x31, ok]).written = [(60, 0x3D)] := by decide

/-- V-RST-03. -/
theorem test_pllRst_both : (ran 0x60D Regs.zero [ok]).trace = [⟨.writeByte 177 0xA0, .done⟩] := by decide

/-- V-RST-E1: no transaction. -/
theorem test_pllRst_none :
    let t := ran 0xD Regs.zero [ok]
    t.errCause = 1 ∧ t.errCmd = 0xD ∧ t.trace = [] ∧ t.draws = 0 := by decide

/-- V-VXP-01. -/
theorem test_packVcxo :
    (ran 0xE { Regs.zero with vxp := 0x2ABCDE } [ok]).trace =
      [⟨.writeBulk 162 [0xDE, 0xBC, 0x2A], .done⟩] := by decide

/-- V-VXP-02: bits above 21 ignored. -/
theorem test_packVcxo_wide :
    (ran 0xE { Regs.zero with vxp := 0xFFFFFFFFFFFFFFFF } [ok]).written =
      [(162, 0xFF), (163, 0xFF), (164, 0x3F)] := by decide

/-- V-STAT-03. -/
theorem test_statusRd :
    (ran 0x10 Regs.zero [.returns 0x73, .returns 0xF0]).regs = { Regs.zero with stat := 0xF0730F3E } := by
  decide

/-- V-STAT-05: the first read fails, the second is not issued. -/
theorem test_statusRd_fails :
    let t := ran 0x10 { Regs.zero with stat := 7 } [.fails, ok]
    t.errCause = 4 ∧ t.regs.stat = 7 ∧ t.trace = [⟨.readByte 0, .failed⟩] ∧ t.draws = 1 := by decide

/-! ## Steps of the host and of the whole machine -/

/-- The word after `withFetchWord` is the one the next step runs. -/
theorem test_withFetchWord :
    resultOf (step (State.reset.withFetchWord 32 0x1)) =
      { State.reset with
        cmd := 1, errCause := 2, errCmd := 1, errorLog := [⟨2, 1⟩], ci := 1, turnDraws := 1 } := by decide

/-- V-ERR-01: an illegal word. -/
theorem test_illegal_word :
    ran 0x7 Regs.zero [] =
      { State.reset with
        cmd := 7, errCause := 1, errCmd := 7, errorLog := [⟨1, 7⟩], ci := 1, turnDraws := 1 } := by decide

/-- V-ERR-02 and V-ERR-03: the gate, then clearing. -/
theorem test_gate_and_clear :
    resultOf (step (errored [.write 0x000 0])) = errored [] ∧
      resultOf (step (errored [.write 0x010 77])) = { idle [] with cmd := 0x9, ci := 1, errorLog := [⟨4, 0x9⟩] } := by
  decide

/-- Acceptance: bits 63:32 of the written value are ignored (R33). -/
theorem test_accept :
    resultOf (step (idle [.write 0x000 0xFFFFFFFF00000010])) =
      { State.reset with cmd := 0x10, flight := some Flight.fresh } := by decide

/-- R10 with W = 40: a host write is kept modulo 2^40, and so is A of PLL_CALC at V-VCXO-04's negative P1. -/
theorem test_width :
    let cfg := { Params.default with width := 40 }
    (resultOf (step { idle [.write 0x080 0x0123456789ABCDEF] with cfg := cfg })).regs.freq = 0x6789ABCDEF ∧
      (resultOf (step { running 0x1 (pllRef 80000000000 30000000000 0) [] with cfg := cfg })).regs.p1 =
        0xFFFFFFFF00 := by decide

/-- The host takes the turns it has left, then the engine its own (R225). -/
theorem test_turns :
    let s := { running 0x0 Regs.zero [] with turns := [2], host := [.waitIdle] }
    (resultOf (core.run 2 s)).busy = true ∧ (resultOf (core.run 3 s)).busy = false ∧
      (resultOf (core.run 3 s)).hostReads = [⟨0x008, 1⟩, ⟨0x008, 1⟩] := by decide

/-- H4, H5 and H6 of R224. -/
theorem test_host_duties :
    refusedWith (step (waiting [.write 0x000 0])) .commandWriteWhileBusy = true ∧
      refusedWith (step (waiting [.write 0x0F8 0])) .registerWriteWhileBusy = true ∧
      refusedWith (step (idle [.read 0x100])) .reservedOffset = true ∧
      refusedWith (step (idle [.write 0x084 0])) .reservedOffset = true := by decide

/-- STATUS reads 1 while a command waits, 2 with an error pending (R32). -/
theorem test_status_reads :
    (resultOf (step (waiting [.read 0x008]))).hostReads = [⟨0x008, 1⟩] ∧
      (resultOf (step (errored [.read 0x008]))).hostReads = [⟨0x008, 2⟩] := by decide

/-- HWAIT stays while BUSY = 1 and goes on when BUSY = 0 (R82). -/
theorem test_wait :
    (resultOf (step (waiting [.waitIdle]))).host = [.waitIdle] ∧
      (resultOf (step (idle [.waitIdle]))).host = [] := by decide

/-- Program P5: the poll goes on while STAT.SYS_INIT = 1 and ends when it is 0 (R218). -/
theorem test_poll :
    (resultOf (step (idle [.pollInit]))).host = [.waitIdle, .write 0x000 0x10, .waitIdle, .pollCheck] ∧
      (resultOf (step { idle [.pollCheck] with regs := { Regs.zero with stat := 0x10800801 } })).host =
        [.pollInit] ∧
      (resultOf (step { idle [.pollCheck] with regs := { Regs.zero with stat := 0x10000800 } })).host = [] := by
  decide

/-- A reset while a command waits abandons it; the byte of a write outstanding becomes unknown (R215). -/
theorem test_reset_abandons :
    resultOf (step
      { waiting [.reset] with
        cmd := 0x20D
        flight := some ⟨0, [], some (.writeByte 177 0x20)⟩
        written := [(90, 5), (177, 0x80)] }) =
      { State.reset with
        turns := [0]
        written := [(90, 5)]
        trace := [⟨.writeByte 177 0x20, .abandoned⟩] } := by decide

/-- A silent reply leaves the command in progress; the next turn takes it up where it stood (R35, R38). -/
theorem test_silent_then_goes_on :
    let s := { running 0xB { Regs.zero with rdiv := 3, flags := 1 }
      [.returns 0x01, ok, .silent, .returns 0x4F, ok] with turns := [0, 0] }
    let t := resultOf (step s)
    t.flight = some ⟨2, [0x01], some (.readByte 16)⟩ ∧
      (resultOf (step t)).trace =
        [⟨.readByte 44, .byte 0x01⟩, ⟨.writeByte 44 0x31, .done⟩, ⟨.readByte 16, .byte 0x4F⟩,
          ⟨.writeByte 16 0x0F, .done⟩] := by decide

theorem test_region_map :
    deviceRegion 89 = some (.multisynth 5) ∧ deviceRegion 90 = some (.multisynth67 6) ∧
      deviceRegion 2 = none ∧ deviceRegion 164 = some .vcxoParams := by decide

theorem test_memory_write_forget :
    (Memory.writeBytes [(3, 1), (9, 2)] 8 [7, 8]) = [(3, 1), (8, 7), (9, 8)] ∧
      Memory.wf [(3, 1), (8, 7), (9, 8)] ∧ Memory.forgetRange [(3, 1), (8, 7), (9, 8)] 8 1 = [(3, 1), (9, 8)] := by
  decide

/-! ## Witnesses: concrete states and operands that meet the hypotheses of each statement -/

/-- What the engine does with `i` in `s`. -/
abbrev did (i : Instr) (s : State) : State := resultOf (exec i s)

/-- The state after a step. -/
abbrev stepped (s : State) : State := resultOf (step s)

theorem zero_fits : ∀ r : Reg, (State.reset.x r).toNat < 2 ^ State.reset.cfg.width := by
  intro r; cases r <;> decide

theorem inv_errored (host : List HostAction) : Inv (errored host) where
  params_sound := (by decide : Params.default.Sound)
  regs_fit := zero_fits
  cause_legal := (by decide : (4 : BitVec 4).toNat ≤ 4)
  no_error_no_word := fun h => absurd h (by decide : ¬ (4 : BitVec 4) = 0)
  busy_no_error := fun h => nomatch h
  written_wf := List.Pairwise.nil
  written_bound := fun _ h => nomatch h
  flight_follows := fun _ h => nomatch h

theorem inv_waiting (host : List HostAction) : Inv (waiting host) where
  params_sound := (by decide : Params.default.Sound)
  regs_fit := zero_fits
  cause_legal := (by decide : (0 : BitVec 4).toNat ≤ 4)
  no_error_no_word := fun _ => rfl
  busy_no_error := fun _ => rfl
  written_wf := List.Pairwise.nil
  written_bound := fun _ h => nomatch h
  flight_follows := fun _ h => by
    cases h
    exact .inr ⟨.statusRd, scriptStatusRd, .readByte 0, (by decide : decode 0x10 = .ok .statusRd), rfl, rfl,
      rfl⟩

theorem witness_DecodeOfEncodeIsIdentity : (Instr.fieldWr .phase 5 127).WellFormed := by decide

theorem witness_EncodeOfDecodeIsIdentity : decode 0x007F594C = .ok (.fieldWr .phase 5 127) := by decide

theorem witness_DecodedWordMatchesExactlyOneRow :
    decode 0x1CB = .ok (.msctlWr 7) ∧ (Instr.msctlWr 0).row.Matches 0x1CB ∧
      (Instr.msctlWr 7).row.Matches 0x1CB := by decide

theorem witness_StepRunsTheAcceptedCommand :
    let s := running 0x10 Regs.zero []
    s.flight = some Flight.fresh ∧ s.hostTurnsLeft = 0 ∧ decode s.cmd = .ok .statusRd := by decide

theorem witness_IllegalWordRaisesIllegalCmd :
    let s := running 0x7 Regs.zero []
    s.flight = some Flight.fresh ∧ s.hostTurnsLeft = 0 ∧ decode s.cmd = .error .unassignedOp := by decide

theorem witness_HostWriteToCmd :
    ((idle [.write 0x000 0x10]).flight = none ∧ (idle [.write 0x000 0x10]).errCause = 0) ∧
      ((errored [.write 0x000 0x10]).flight = none ∧ (errored [.write 0x000 0x10]).errCause ≠ 0) ∧
      ((waiting [.write 0x000 0x10]).busy = true ∧ (waiting [.write 0x000 0x10]).hostTurnsLeft ≠ 0) ∧
      exec .statusRd (running 0x10 Regs.zero [.silent]) =
        .next (did .statusRd (running 0x10 Regs.zero [.silent])) := by
  refine ⟨?_, ?_, ?_, rfl⟩ <;> decide

theorem witness_ErrorGateDropsCommands :
    ∀ h : HostAction, h ∈ [.write 0x000 0, .write (0x080 + 8 * Reg.freq.index) 1,
        .write (0x080 + 8 * Reg.stat.index) 1, .read (0x080 + 8 * Reg.freq.index),
        .read (0x080 + 8 * Reg.stat.index)] →
      (errored [h]).flight = none ∧ (errored [h]).errCause ≠ 0 ∧ (errored [h]).host = [h] := by
  intro h _
  exact ⟨rfl, (by decide : (4 : BitVec 4) ≠ 0), rfl⟩

theorem witness_FirstErrorStaysRecorded :
    ∀ h : HostAction, h ∈ [.write 0x010 0, .reset, .read 0x010] →
      Inv (errored [h]) ∧ step (errored [h]) = .next (stepped (errored [h])) ∧
        (errored [h]).errCause ≠ 0 := by
  intro h hh
  refine ⟨inv_errored _, ?_, (by decide : (4 : BitVec 4) ≠ 0)⟩
  simp only [List.mem_cons, List.not_mem_nil, or_false] at hh
  rcases hh with rfl | rfl | rfl <;> rfl

theorem witness_WriteToErrcauseClears :
    (errored [.write 0x010 5]).busy = false ∧
      ((waiting [.write 0x010 5]).busy = true ∧ (waiting [.write 0x010 5]).hostTurnsLeft ≠ 0) := by decide

theorem witness_HostReadsReturnCurrentValues :
    (errored []).busy = false ∧ BitVec.ofNat 64 (errored []).cmd.toNat = 9 ∧
      BitVec.ofNat 64 ((if (errored []).busy then 1 else 0) + (if (errored []).errCause ≠ 0 then 2 else 0)) =
        2 ∧
      BitVec.ofNat 64 (errored []).errCause.toNat = 4 ∧ BitVec.ofNat 64 (errored []).errCmd.toNat = 9 ∧
      0x080 + 8 * Reg.freq.index = 0x080 ∧ 0x080 + 8 * Reg.stat.index = 0x0F8 ∧
      (waiting [.read 0x008]).hostTurnsLeft ≠ 0 := by decide

theorem witness_HostWritesOutsideCmd :
    (waiting [.write 0x008 1]).hostTurnsLeft ≠ 0 ∧ (idle [.write 0x018 1]).busy = false ∧
      (waiting [.write 0x008 1]).host = [.write 0x008 1] ∧ (idle [.write (0x080 + 8 * Reg.stat.index) 1]).flight = none := by decide

theorem witness_HostDutiesHaveNoMove :
    (waiting [.write 0x000 0]).busy = true ∧ (waiting [.write 0x000 0]).hostTurnsLeft ≠ 0 ∧
      (∀ offset ∈ [0x001, 0x020, 0x078, 0x084, 0x100],
        offset ∉ [0x000, 0x008, 0x010, 0x018] ∧ ∀ r : Reg, offset ≠ 0x080 + 8 * r.index) := by
  refine ⟨by decide, by decide, fun offset ho => ⟨?_, fun r => ?_⟩⟩
  · revert offset; decide
  · cases r <;> revert offset <;> decide

theorem witness_WaitReadsStatusUntilIdle :
    (waiting [.waitIdle]).busy = true ∧ (waiting [.waitIdle]).hostTurnsLeft ≠ 0 ∧
      (errored [.waitIdle]).busy = false := by decide

theorem witness_InitializationPoll :
    (waiting [.pollInit]).hostTurnsLeft ≠ 0 ∧ (idle [.pollCheck]).busy = false ∧
      (idle [.pollCheck]).host = [.pollCheck] := by decide

theorem witness_ResetInputLeavesTheDevice :
    (waiting [.reset]).hostTurnsLeft ≠ 0 ∧
      (waiting [.reset]).flight = some ⟨0, [], some (.readByte 0)⟩ ∧ (idle [.reset]).flight = none ∧
      (running 0x10 Regs.zero []).flight = some ⟨0, [], none⟩ := by decide

theorem witness_NopOnlyCompletes :
    let s := { idle [.write 0x000 0] with turns := [0] }
    s.flight = none ∧ s.errCause = 0 ∧ s.turns = [0] ∧ (errored [.write 0x000 0]).errCause ≠ 0 := by
  decide

/-- The corrected reference of R91 in EXACT mode at the operands of V-PLL-E2 (0) and one ppb above. -/
theorem witness_PllCalcResults :
    let refc (corr : Word) : Int :=
      let s := running 0x1 (pllRef 80000000000 2500000000 corr) []
      let q : Int := (s.x .ref).toNat * ((s.x .corr).setWidth 32).toInt
      (s.x .ref).toNat + (if 0 ≤ q then (q + 500000000) / 1000000000 else -((-q + 500000000) / 1000000000))
    refc 0xFFFFFFFFC4653600 = 0 ∧ 0 < refc 0xFFFFFFFFC4653601 ∧
      State.reset.cfg.corrMode = .exactRational := by decide

/-- PLLF 0, PLLF 6 (the first that is no error) and PLLF 5. -/
theorem witness_MsCalcResults :
    let pll (s : State) : Nat := (s.x .pllf).toNat
    let f (s : State) : Nat := max 50000000 (min 22500000000 (s.x .freq).toNat)
    let f' (s : State) : Nat :=
      if pll s / f s < 6 then pll s / 6 else if 1800 < pll s / f s then pll s / 1800 else f s
    let s (p : Word) : State := running 0x3 (freqPll 1000000000 p) []
    pll (s 0) = 0 ∧ (pll (s 6) ≠ 0 ∧ f' (s 6) ≠ 0) ∧ (pll (s 5) ≠ 0 ∧ f' (s 5) = 0) := by decide

/-- PLLF 0, the quotients 6 and 254, and the quotients 5 and 255 and a remainder. -/
theorem witness_Ms67CalcResults :
    let pll (s : State) : Int := (s.x .pllf).toNat
    let f (s : State) : Int := max 50000000 (min 15000000000 ((s.x .freq).toNat : Int))
    let fits (s : State) : Bool := decide (pll s % f s = 0 ∧ 6 ≤ pll s / f s ∧ pll s / f s ≤ 254)
    let s (p : Word) : State := running 0x4 (freqPll 1000000000 p) []
    pll (s 0) = 0 ∧ fits (s 6000000000) = true ∧ fits (s 254000000000) = true ∧
      fits (s 5000000000) = false ∧ fits (s 255000000000) = false ∧ fits (s 6000000001) = false := by
  refine ⟨?_, ?_, ?_, ?_, ?_, ?_⟩ <;> decide

theorem witness_RdivSelectorResults :
    State.reset.cfg.clkoutMin = 400000 ∧ State.reset.cfg.clkout67Min = 1845400 ∧
      (400000 * 2 ^ 0 ≤ 400000 ∧ 400000 < 400000 * 2 ^ 1) ∧
      (400000 * 2 ^ 6 ≤ 51199999 ∧ 51199999 < 400000 * 2 ^ 7) ∧
      (∀ j ≤ 6, ¬ (400000 * 2 ^ j ≤ 399999 ∧ 399999 < 400000 * 2 ^ (j + 1))) ∧
      ∀ j ≤ 6, ¬ (400000 * 2 ^ j ≤ 51200000 ∧ 51200000 < 400000 * 2 ^ (j + 1)) := by decide

theorem witness_device_commands :
    let s := running 0x9 Regs.zero [.returns 1, .returns 2, .returns 3, .returns 4]
    s.flight = some Flight.fresh ∧ s.replyAt 0 = .returns 1 ∧ s.replyAt 1 = .returns 2 ∧
      s.replyAt 2 = .returns 3 ∧ s.replyAt 3 = .returns 4 := by decide

/-- PackPllResult, SingleWriteCommandResults: any PLL, channels 6 and 7; PackMsResult: channels 0 and 5;
MsctlWrResult: channels 5 and 6, where its clauses meet; FieldWrResult: a field of every legal-channel class at
its greatest channel and immediate. The state is that of `witness_device_commands`. -/
theorem witness_device_operands :
    ((0 : Channel).val ≤ 5 ∧ (5 : Channel).val ≤ 5) ∧ 6 ≤ (6 : Channel).val ∧ 6 ≤ (7 : Channel).val ∧
      (Instr.fieldWr .oeb 7 1).WellFormed ∧ (Instr.fieldWr .phase 5 127).WellFormed ∧
      (Instr.fieldWr .xtalCl 0 3).WellFormed ∧ (Instr.fieldWr .rdiv 7 7).WellFormed := by decide

theorem witness_StatusRdResult :
    let s := running 0x10 Regs.zero [.returns 0x80, .returns 0x10]
    s.flight = some Flight.fresh ∧ 32 ≤ s.cfg.width ∧ s.replyAt 0 = .returns 0x80 ∧
      s.replyAt 1 = .returns 0x10 := by decide

theorem witness_IllFormedCommandsRaiseIllegalCmd :
    ¬ (Instr.packMs 6).WellFormed ∧ ¬ (Instr.packMs67 5).WellFormed ∧ ¬ (Instr.fieldWr .oeb 0 2).WellFormed ∧
      ¬ (Instr.pllRst false false).WellFormed ∧ (running 0x9 Regs.zero []).flight = some Flight.fresh := by
  decide

theorem witness_FailedTransactionEndsTheCommand :
    let s := running 0x9 Regs.zero [.returns 0, .fails]
    exec (.packMs 0) s = .next (did (.packMs 0) s) ∧
      (did (.packMs 0) s).trace =
        s.trace ++ [⟨.readByte 44, .byte 0⟩] ++
          ⟨.writeBulk 42 [0, 0, 0, 0, 0, 0, 0, 0], .failed⟩ :: [] := by
  refine ⟨rfl, ?_⟩; decide

/-- The second clause, at its first and at its last transaction; where a write has completed before the failed
one, its byte stays (R55). -/
theorem witness_FailedReply :
    let s := running 0xB Regs.zero [.returns 0x83, .returns 0, .returns 0, .fails]
    let s' := running 0x10 Regs.zero [.fails]
    (Instr.msctlWr 0).WellFormed ∧ s.flight = some Flight.fresh ∧ s.replyAt 0 = .returns 0x83 ∧
      s.replyAt 1 = .returns 0 ∧ s.replyAt 2 = .returns 0 ∧ s.replyAt 3 = .fails ∧ s.written.wf ∧
      (did (.msctlWr 0) s).written = [(44, 0x83)] ∧
      s'.flight = some Flight.fresh ∧ s'.replyAt 0 = .fails := by decide

theorem witness_EachCommandRaisesOnlyItsCause :
    let s := running 0x1 Regs.zero []
    s.errCause = 0 ∧ Instr.pllCalc.WellFormed ∧ exec .pllCalc s = .next (did .pllCalc s) ∧
      (did .pllCalc s).errCause = 2 := by
  refine ⟨?_, ?_, rfl, ?_⟩ <;> decide

theorem witness_ErrorWritesNoEngineRegister :
    let s := running 0x10 Regs.zero [.returns 1, .fails]
    s.errCause = 0 ∧ exec .statusRd s = .next (did .statusRd s) ∧ (did .statusRd s).errCause ≠ 0 := by
  refine ⟨?_, rfl, ?_⟩ <;> decide

theorem witness_OnlyListedRegistersAreWritten :
    let s := running 0x4 (freqPll 1000000000 0) []
    exec .ms67Calc s = .next (did .ms67Calc s) ∧ Reg.p1 ∉ [Reg.a, .b, .c, .rf, .flags] := by
  refine ⟨rfl, ?_⟩; decide

theorem witness_CommandsReachOnlyTheirAddresses :
    let s := running 0x18B Regs.zero [.returns 0, ok]
    (Instr.msctlWr 6).WellFormed ∧ s.cfg.Sound ∧ exec (.msctlWr 6) s = .next (did (.msctlWr 6) s) ∧
      (did (.msctlWr 6) s).trace = s.trace ++ [⟨.readByte 92, .byte 0⟩, ⟨.writeByte 92 0, .done⟩] := by
  refine ⟨?_, ?_, rfl, ?_⟩ <;> decide

/-- Addresses just outside the stored bytes of each form. -/
theorem witness_OnlyStoredBytesChange :
    let s := running 0x9 Regs.zero [.returns 0, ok]
    s.written.wf ∧ exec (.packMs 0) s = .next (did (.packMs 0) s) ∧
      (25 < pllBase .a ∧ pllBase .a + 8 ≤ 34 ∧ 33 < pllBase .b ∧ pllBase .b + 8 ≤ 42) ∧
      (41 < msBase 0 ∧ msBase 0 + 8 ≤ 50 ∧ 81 < msBase 5 ∧ msBase 5 + 8 ≤ 90) ∧
      91 ≠ 90 + ((6 : Channel).val - 6) ∧ (85 ≠ ctlByteAddr 5 ∧ 85 ≠ 16 + (5 : Channel).val) ∧
      44 ≠ (fieldTable .rdiv 7).addr := by
  refine ⟨?_, rfl, ?_⟩ <;> decide

theorem witness_CompletedWriteIsKnown :
    let s := running 0xE { Regs.zero with vxp := 0x2ABCDE } [ok]
    s.written.wf ∧ exec .packVcxo s = .next (did .packVcxo s) ∧
      (did .packVcxo s).trace = s.trace ++ [] ++ [⟨.writeBulk 162 [0xDE, 0xBC, 0x2A], .done⟩] ∧
      (Request.writeBulk 162 [0xDE, 0xBC, 0x2A]).payload[2]? = some 0x2A := by
  refine ⟨?_, rfl, ?_, ?_⟩ <;> decide

theorem witness_AnsweredCommandCompletes :
    let s := running 0xB Regs.zero [ok, ok, ok, ok]
    s.flight = some Flight.fresh ∧ ∀ k < 4, s.replyAt k = .returns 0 := by decide

/-- The second clause: a command in progress with two host turns left, the host waiting. -/
theorem witness_AnsweredCommandCompletes_end :
    let s := { running 0xB Regs.zero [ok, ok, ok, ok] with turns := [2], host := [.waitIdle] }
    s.busy = true ∧ (∀ k < 4, s.replyAt k = .returns 0) ∧ s.host = .waitIdle :: [] ∧
      s.hostTurnsLeft + 1 = 3 := by decide

theorem witness_TransactionsDependOnRegistersAndReplies :
    let s := running 0x9 (fields 1 2 3) [.returns 4, ok]
    let s' := { s with ci := 7, written := [(42, 9)] }
    s.regs = s'.regs ∧ s.cfg = s'.cfg ∧ s.flight = s'.flight ∧ (∀ k, s.replyAt k = s'.replyAt k) ∧
      exec (.packMs 0) s = .next (did (.packMs 0) s) ∧
      exec (.packMs 0) s' = .next (did (.packMs 0) s') :=
  ⟨rfl, rfl, rfl, fun _ => rfl, rfl, rfl⟩

theorem witness_UnansweredCallKeepsBusy :
    let s := { running 0x10 Regs.zero [.silent, .silent, .silent] with
      turns := [0, 1]
      host := [.read 0x008] }
    s.flight = some Flight.fresh ∧ decode s.cmd = .ok .statusRd ∧ (∀ k < 3, s.replyAt k = .silent) ∧
      .reset ∉ s.host ∧ core.run 3 s = .next (resultOf (core.run 3 s)) := by
  refine ⟨?_, ?_, ?_, ?_, rfl⟩ <;> decide

theorem witness_WaitingCommandGoesOnWhereItStood :
    let s := running 0x10 Regs.zero [.returns 5, .silent, .returns 6]
    s.flight = some Flight.fresh ∧ s.replies = [.returns 5] ++ .silent :: [.returns 6] ∧
      exec .statusRd s = .next (did .statusRd s) ∧ (did .statusRd s).busy = true := by
  refine ⟨?_, ?_, rfl, ?_⟩ <;> decide

/-- CommandIndexCountsCompletions, RegistersStandStillWhileBusy, ParametersFixedAndRecordsGrow and
StepKeepsInvariant: a step that ends a command, a reset, and a step that leaves one in progress. -/
theorem witness_whole_machine :
    step (running 0x0 Regs.zero []) = .next (stepped (running 0x0 Regs.zero [])) ∧
      (stepped (running 0x0 Regs.zero [])).ci = 1 ∧
      step (waiting [.reset]) = .next (stepped (waiting [.reset])) ∧
      step (waiting [.read 0x000]) = .next (stepped (waiting [.read 0x000])) ∧
      (waiting [.read 0x000]).busy = true ∧ (stepped (waiting [.read 0x000])).busy = true ∧
      Inv (waiting [.read 0x000]) := by
  refine ⟨rfl, ?_, rfl, rfl, ?_, ?_, inv_waiting _⟩ <;> decide

theorem witness_RoundHalfAwayIsNearest : (0 : Int) < 2 ∧ roundHalfAway 5 2 = 3 ∧ roundHalfAway (-5) 2 = -3 := by decide

/-- Quotients 15, 90, 14 and 91 at the clamped target. -/
theorem witness_PllCalcAccuracy :
    (0 : Int) < 1 ∧ (pllDivider 60000000000 4000000000).a = 15 ∧ (pllDivider 90000000000 1000000000).a = 90 ∧
      (pllDivider 60000000000 4000000001).a = 14 ∧ (pllDivider 90000000000 989010989).a = 91 := by
  refine ⟨?_, ?_, ?_, ?_, ?_⟩ <;> decide

theorem witness_PllCalcIsAFunctionOfItsOperands :
    let s := running 0x1 (pllRef 80000000000 2500000000 1000) []
    let s' := running 0x1 { pllRef 80000000000 2500000000 0xABCD0000000003E8 with flags := 7 } []
    s.x .pllf = s'.x .pllf ∧ s.x .ref = s'.x .ref ∧
      (s.x .corr).extractLsb' 0 32 = (s'.x .corr).extractLsb' 0 32 ∧ s.cfg.corrMode = s'.cfg.corrMode ∧
      s.cfg.width = s'.cfg.width := by
  decide

theorem witness_CorrectionShiftsReferenceExactly :
    let s := running 0x1 (pllRef 80000000000 2500000000 0) []
    let s' := running 0x1 (pllRef 80000000000 2500000000 1000) []
    s.cfg.corrMode = .exactRational ∧ s.cfg.width = 64 ∧ s.x .ref = s'.x .ref ∧ s.x .corr = 0 ∧ s'.x .corr = 1000 ∧
      0 < (s.x .ref).toNat ∧ (s.x .ref).toNat < 2 ^ 61 ∧ (s.x .ref).toNat % 1000000 = 0 ∧
      exec .pllCalc s = .next (did .pllCalc s) ∧ exec .pllCalc s' = .next (did .pllCalc s') := by
  refine ⟨?_, ?_, ?_, ?_, ?_, ?_, ?_, ?_, rfl, rfl⟩ <;> decide

theorem witness_MsFreeModeStaysInRange :
    (running 0x3 (freqPll 15000000000 0) []).x .pllf = 0 ∧ 37 ≤ State.reset.cfg.width := by decide

/-- Quotients 6 and 1800. -/
theorem witness_MsLockedModeAccuracy :
    let a (s : State) : Nat := (s.x .pllf).toNat / max 50000000 (min 22500000000 (s.x .freq).toNat)
    a (running 0x3 (freqPll 15000000000 90000000000) []) = 6 ∧
      a (running 0x3 (freqPll 50000000 90000000000) []) = 1800 := by decide

theorem witness_DivZeroExactlyBelowSix :
    let s := running 0x3 (freqPll 1000000000 5) []
    s.errCause = 0 ∧ exec .msCalc s = .next (did .msCalc s) ∧ (did .msCalc s).errCause = 3 ∧
      (did .msCalc (running 0x3 (freqPll 1000000000 6) [])).errCause = 0 := by
  refine ⟨?_, rfl, ?_, ?_⟩ <;> decide

theorem witness_BadReferenceCases :
    let s := running 0x1 (pllRef 80000000000 0 0) []
    s.errCause = 0 ∧ exec .pllCalc s = .next (did .pllCalc s) ∧ s.x .ref = 0 ∧
      ((0xC4653600 : Word).setWidth 32).toInt = -1000000000 := by
  refine ⟨?_, rfl, ?_, ?_⟩ <;> decide

theorem witness_Ms67FreeModeIsEvenAndBounded : 
    (running 0x4 (freqPll 50000000 0) []).x .pllf = 0 ∧ 9 ≤ State.reset.cfg.width := by decide

theorem witness_SecondRdivSelLosesTheCode :
    let s := running 0x5 (freqPll 10000000 0) []
    s.cfg.Sound ∧ (s.x .freq).toNat < 2 ^ s.cfg.width ∧ 256 * s.cfg.clkoutMin ≤ 2 ^ s.cfg.width ∧
      256 * s.cfg.clkout67Min ≤ 2 ^ s.cfg.width ∧ exec .rdivSel s = .next (did .rdivSel s) ∧
      exec .rdiv67Sel s = .next (did .rdiv67Sel s) := by
  refine ⟨?_, ?_, ?_, ?_, rfl, rfl⟩ <;> decide

theorem witness_ScaledFrequencyPassesTheClamp :
    let s := running 0x5 (freqPll 51199999 0) []
    s.cfg.clkoutMin = 400000 ∧ 27 ≤ s.cfg.width ∧ exec .rdivSel s = .next (did .rdivSel s) ∧ 400000 ≤ (s.x .freq).toNat ∧
      (s.x .freq).toNat < 51200000 := by
  refine ⟨?_, ?_, rfl, ?_, ?_⟩ <;> decide

theorem witness_control_fields :
    (fieldTable .rdiv 6).legal = true ∧ (fieldTable .rdiv 7).legal = true ∧
      (fieldTable .rdiv 6).addr = (fieldTable .rdiv 7).addr ∧
      ((Sys2Proof.Field.rdiv, (6 : Channel)) ≠ (.rdiv, 7)) := by decide

/-- A NOP run from a clean state to its safe end; and a run that cleared an error on the way, which is none. -/
theorem witness_SafeRunRaisedNoError :
    let s := { idle [.write 0x000 0] with turns := [0] }
    let u := { idle [.write 0x000 7, .write 0x010 0] with turns := [0] }
    SafeRun s 2 (resultOf (core.run 2 s)) ∧
      Ended (resultOf (core.run 3 u)) ∧ (resultOf (core.run 3 u)).errCause = 0 ∧
      ¬ EndedSafely u (resultOf (core.run 3 u)) := by
  refine ⟨⟨?_, rfl, ?_⟩, ?_, ?_, ?_⟩ <;> decide

end Sys2Proof.Tests
end

section
/-! PROOFS. RoundHalfAway (R12) is the nearest integer, halves away from zero. -/

namespace Sys2Proof.Machine

/-- A half added before the division rounds to the nearest integer, halves up. -/
theorem halfUp_bounds (m d : Int) (hd : 0 < d) :
    2 * ((2 * m + d) / (2 * d) * d) ≤ 2 * m + d ∧ 2 * m < 2 * ((2 * m + d) / (2 * d) * d) + d := by
  have hlow := Int.ediv_mul_le (2 * m + d) (b := 2 * d) (by omega)
  have hhigh := Int.lt_ediv_add_one_mul_self (2 * m + d) (b := 2 * d) (by omega)
  constructor <;> linarith

/-- Settles O47: a negative number is rounded half up on its absolute value, so its halves go down. -/
theorem roundHalfAwayIsNearest : Obligations.RoundHalfAwayIsNearest := by
  unfold Obligations.RoundHalfAwayIsNearest roundHalfAway
  intro n d hd
  dsimp only
  split
  case isTrue hn =>
    obtain ⟨hlow, hhigh⟩ := halfUp_bounds n d hd
    refine ⟨?_, ?_, ?_, ?_⟩ <;> omega
  case isFalse hn =>
    obtain ⟨hlow, hhigh⟩ := halfUp_bounds (-n) d hd
    rw [neg_mul]
    refine ⟨?_, ?_, ?_, ?_⟩ <;> omega

end Sys2Proof.Machine
end

section
/-! PROOFS. The transactions a script can issue, and what holds after a turn of a script because each of its
transactions keeps it. -/

namespace Sys2Proof.Machine

/-! ## The transactions a script can issue -/

/-- Every transaction the script can issue, whatever bytes its reads return, satisfies `Q`. -/
@[simp] def Script.AllRequests (Q : Request → Prop) : Script → Prop
  | .finish _ => True
  | .raise _ => True
  | .readByte a k => Q (.readByte a) ∧ ∀ b, (k b).AllRequests Q
  | .writeByte a v k => Q (.writeByte a v) ∧ k.AllRequests Q
  | .writeBulk a bs k => Q (.writeBulk a bs) ∧ k.AllRequests Q

/-- What is left of a script issues no transaction the whole script does not have. -/
theorem Script.AllRequests.after {Q : Request → Prop} {p q : Script} {n : Nat} {held : List Byte}
    (hp : p.AllRequests Q) (h : p.after n held = some q) : q.AllRequests Q := by
  induction p generalizing n held with
  | finish ws =>
    obtain rfl : q = .finish ws := by cases n <;> cases held <;> simp_all [Script.after]
    exact hp
  | raise c =>
    obtain rfl : q = .raise c := by cases n <;> cases held <;> simp_all [Script.after]
    exact hp
  | readByte a k ih =>
    match n, held with
    | 0, [] => exact Option.some.inj h ▸ hp
    | 0, _ :: _ | _ + 1, [] => cases h
    | _ + 1, b :: _ => exact ih b (hp.2 b) h
  | writeByte a v k ih =>
    match n, held with
    | 0, [] => exact Option.some.inj h ▸ hp
    | 0, _ :: _ => cases h
    | _ + 1, _ => exact ih hp.2 h
  | writeBulk a bs k ih =>
    match n, held with
    | 0, [] => exact Option.some.inj h ▸ hp
    | 0, _ :: _ => cases h
    | _ + 1, _ => exact ih hp.2 h

theorem Script.AllRequests.resume {Q : Request → Prop} {p : Script} (hp : p.AllRequests Q) (f : Flight) :
    (p.resume f).AllRequests Q := by
  cases h : p.after f.position f.held with
  | none => simpa [Script.resume, h] using hp
  | some q => rw [resume_of_after h]; exact hp.after h

theorem allRequests_whenLegal {Q : Request → Prop} {ok : Bool} {p : Script}
    (hp : ok = true → p.AllRequests Q) : (Script.whenLegal ok p).AllRequests Q := by
  cases ok
  · trivial
  · exact hp rfl

/-! ## What each transaction keeps, a turn keeps -/

/-- `P` is kept by whatever the engine does in a turn of a script whose transactions satisfy `Q`. -/
structure KeptByTurn (Q : Request → Prop) (P : State → Prop) : Prop where
  finish : ∀ ws s, P s → P (completeCommand (s.writeRegs ws))
  raise : ∀ c s, P s → P (enterError c s)
  read : ∀ a b s, Q (.readByte a) → P s → P (readCompleted a b s.dropReply)
  write : ∀ r s, Q r → P s → P (writeCompleted r s.dropReply)
  fail : ∀ r s, Q r → P s → P (transactionFailed r s.dropReply)
  await : ∀ r s, Q r → P s → P (awaitPort r s.dropReply)

theorem KeptByTurn.run {Q : Request → Prop} {P : State → Prop} (hk : KeptByTurn Q P) {p : Script}
    (hp : p.AllRequests Q) {s : State} (hs : P s) : P (p.run s) := by
  induction p generalizing s with
  | finish ws => exact hk.finish ws s hs
  | raise c => exact hk.raise c s hs
  | readByte a k ih =>
    simp only [Script.run]
    split
    · exact ih _ (hp.2 _) (hk.read a _ s hp.1 hs)
    · exact hk.fail _ s hp.1 hs
    · exact hk.await _ s hp.1 hs
  | writeByte a v k ih =>
    simp only [Script.run]
    split
    · exact ih hp.2 (hk.write _ s hp.1 hs)
    · exact hk.fail _ s hp.1 hs
    · exact hk.await _ s hp.1 hs
  | writeBulk a bs k ih =>
    simp only [Script.run]
    split
    · exact ih hp.2 (hk.write _ s hp.1 hs)
    · exact hk.fail _ s hp.1 hs
    · exact hk.await _ s hp.1 hs

/-! ## The addresses of the commands' transactions (R46, R49, R52) -/

/-- The transaction stays below address `n`. -/
def Request.Below (n : Nat) (r : Request) : Prop := r.addr < n ∧ r.addr + r.payload.length ≤ n

@[simp] theorem readByte_below (n a : Nat) : (Request.readByte a).Below n ↔ a < n :=
  ⟨And.left, fun h => ⟨h, h.le⟩⟩
@[simp] theorem writeByte_below (n a : Nat) (v : Byte) : (Request.writeByte a v).Below n ↔ a < n :=
  ⟨And.left, fun h => ⟨h, h⟩⟩
@[simp] theorem writeBulk_below (n a : Nat) (bs : List Byte) :
    (Request.writeBulk a bs).Below n ↔ a < n ∧ a + bs.length ≤ n := .rfl

theorem pllScript_allRequests (Q : Request → Prop) (rf : PllResult → Int) (s : State) :
    (pllScript rf s).AllRequests Q := by
  unfold pllScript; dsimp only; split <;> trivial

theorem scriptMsCalc_allRequests (Q : Request → Prop) (s : State) : (scriptMsCalc s).AllRequests Q := by
  unfold scriptMsCalc; split <;> trivial

/-- Every command keeps to the first 256 device addresses. -/
theorem script_below (i : Instr) (s : State) : (script i s).AllRequests (Request.Below 256) := by
  cases i with
  | nop => trivial
  | pllCalc => rw [script, scriptPllCalc]; exact pllScript_allRequests _ _ s
  | pllCalcVcxo => rw [script, scriptPllCalcVcxo]; exact pllScript_allRequests _ _ s
  | msCalc => exact scriptMsCalc_allRequests _ s
  | ms67Calc => trivial
  | rdivSel => trivial
  | rdiv67Sel => trivial
  | packPll p => cases p <;> simp [script, scriptPackPll, pllBase, dividerBytes]
  | packMs ch =>
    refine allRequests_whenLegal fun _ => ?_
    simp only [Script.AllRequests, readByte_below, writeBulk_below, msBase, dividerBytes_length,
      forall_const, and_true]
    omega
  | packMs67 ch =>
    refine allRequests_whenLegal fun _ => ?_
    simp only [Script.AllRequests, writeByte_below, and_true]
    omega
  | msctlWr ch =>
    simp only [script, scriptMsctlWr, ctlByteAddr]
    split_ifs
    · simp; omega
    · simp
    · simp
  | fieldWr f ch imm =>
    have haddr := (fieldTable_fits f ch).2
    exact allRequests_whenLegal fun _ => by simp [rmw, haddr]
  | pllRst resetA resetB => exact allRequests_whenLegal fun _ => by simp
  | packVcxo => simp [script, scriptPackVcxo, vcxoBytes]
  | statusRd => simp [script, scriptStatusRd]

end Sys2Proof.Machine
end

section
/-! PROOFS. What one step can do, said once: the engine runs a script from where the command stands, or the host
makes one of five moves. -/

namespace Sys2Proof.Machine

/-! ## The engine's turn -/

/-- What the engine runs in a turn: the rest of the command's script, or ILLEGAL_CMD for an illegal word (R79,
R191). -/
def turnScript (s : State) : Script :=
  match decode (fetch s) with
  | .ok i => (script i s).resume s.currentFlight
  | .error _ => .raise .illegalCmd

theorem turnScript_of_ok {s : State} {i : Instr} (h : decode (fetch s) = .ok i) :
    turnScript s = (script i s).resume s.currentFlight := by simp only [turnScript, h]

theorem turnScript_of_error {s : State} {e : Illegal} (h : decode (fetch s) = .error e) :
    turnScript s = .raise .illegalCmd := by simp only [turnScript, h]

theorem engineStep_eq_run (s : State) : engineStep s = .next ((turnScript s).run s) := by
  cases h : decode (fetch s) with
  | ok i => rw [turnScript_of_ok h, ← exec_eq, engineStep, h]
  | error e => rw [turnScript_of_error h, run_raise, engineStep, h]

theorem turnScript_below (s : State) : (turnScript s).AllRequests (Request.Below 256) := by
  cases h : decode (fetch s) with
  | ok i => rw [turnScript_of_ok h]; exact (script_below i s).resume _
  | error e => rw [turnScript_of_error h]; trivial

/-! ## The host's turn -/

/-- The moves of the host (R32, R33, R82, R199, R215). -/
inductive HostMove (s : State) : State → Prop
  /-- Nothing of the engine changes: a read, a wait, a poll, a write without effect, or no action left. -/
  | observes (host : List HostAction) (reads : List HostRead) :
      HostMove s { s with host := host, hostReads := s.hostReads ++ reads }
  /-- A write to CMD is accepted. -/
  | commands (host : List HostAction) (w : CmdWord) (idle : s.flight = none) (noError : s.errCause = 0) :
      HostMove s (acceptCommand w { s with host := host })
  /-- A write to ERRCAUSE clears the error. -/
  | clears (host : List HostAction) : HostMove s (clearError { s with host := host })
  /-- An engine register is written. -/
  | sets (host : List HostAction) (r : Reg) (v : Int) (idle : s.flight = none) :
      HostMove s (State.setX { s with host := host } r v)
  /-- The reset input. -/
  | resets (rest : List HostAction) (next : s.host = .reset :: rest) :
      HostMove s (resetEngine { s with host := rest })

/-- A move that leaves the host's record of reads alone. -/
theorem HostMove.idles (s : State) (host : List HostAction) : HostMove s { s with host := host } := by
  simpa using HostMove.observes (s := s) host []

theorem hostRead_move {s t : State} {host : List HostAction} {offset : Nat}
    (h : hostRead offset { s with host := host } = .next t) : HostMove s t := by
  unfold hostRead at h
  split at h <;> cases h
  exact .observes host _

theorem hostCommand_move {s : State} (host : List HostAction) (w : CmdWord) (idle : s.flight = none) :
    HostMove s (hostCommand w { s with host := host }) := by
  unfold hostCommand
  split
  case isTrue noError => exact .commands host w idle noError
  case isFalse => exact .idles s host

theorem hostWrite_move {s t : State} {host : List HostAction} {offset : Nat} {v : Word}
    (h : hostWrite offset v { s with host := host } = .next t) : HostMove s t := by
  unfold hostWrite at h
  split at h
  case h_1 => cases h
  case h_2 =>
    split at h <;> cases h
    case isFalse hb => exact hostCommand_move host _ (by simpa [State.busy] using hb)
  case h_3 => cases h; exact .idles s host
  case h_4 => cases h; exact .clears host
  case h_5 => cases h; exact .idles s host
  case h_6 =>
    split at h <;> cases h
    case isFalse hb => exact .sets host _ _ (by simpa [State.busy] using hb)

theorem hostTurn_move {s t : State} (h : hostTurn s = .next t) : HostMove s t := by
  cases hs : s.host with
  | nil => rw [hostTurn_nil s hs] at h; cases h; exact .idles s s.host
  | cons action rest =>
    cases action with
    | write offset v => rw [hostTurn_write s _ _ _ hs] at h; exact hostWrite_move h
    | read offset => rw [hostTurn_read s _ _ hs] at h; exact hostRead_move h
    | waitIdle =>
      rw [hostTurn_wait s _ hs] at h
      split at h
      · exact hostRead_move (host := s.host) h
      · exact hostRead_move h
    | reset => rw [hostTurn_reset s _ hs] at h; cases h; exact .resets rest hs
    | pollInit => rw [hostTurn_pollInit s _ hs] at h; cases h; exact .idles s _
    | pollCheck => rw [hostTurn_pollCheck s _ hs] at h; exact hostRead_move h

/-! ## The step -/

/-- A step is a turn of the engine on the command in progress or a move of the host. -/
theorem step_next_cases {s t : State} (h : step s = .next t) :
    (s.busy = true ∧ t = (turnScript s.beginEngineTurn).run s.beginEngineTurn) ∨
      HostMove s t ∨ HostMove s.spendHostTurn t := by
  obtain ⟨hstep, -⟩ | ⟨⟨f, hf⟩, hstep | hstep⟩ := step_cases s <;> rw [hstep] at h
  · exact .inr (.inl (hostTurn_move h))
  · rw [engineStep_eq_run] at h
    cases h
    exact .inl ⟨by simp [State.busy, hf], rfl⟩
  · exact .inr (.inr (hostTurn_move h))

/-! ## The reset input -/

@[simp] theorem resetEngine_regs (s : State) : (resetEngine s).regs = Regs.zero := rfl
@[simp] theorem resetEngine_errCause (s : State) : (resetEngine s).errCause = 0 := rfl
@[simp] theorem resetEngine_errCmd (s : State) : (resetEngine s).errCmd = 0 := rfl
@[simp] theorem resetEngine_flight (s : State) : (resetEngine s).flight = none := rfl

@[simp] theorem resetEngine_cfg (s : State) : (resetEngine s).cfg = s.cfg := by
  unfold resetEngine abandonTransaction; dsimp only; split <;> rfl
@[simp] theorem resetEngine_hostReads (s : State) : (resetEngine s).hostReads = s.hostReads := by
  unfold resetEngine abandonTransaction; dsimp only; split <;> rfl
@[simp] theorem resetEngine_errorLog (s : State) : (resetEngine s).errorLog = s.errorLog := by
  unfold resetEngine abandonTransaction; dsimp only; split <;> rfl

/-- A reset records the transaction it abandons and makes the bytes that one writes unknown (R55, R215). -/
theorem resetEngine_device (s : State) :
    ((resetEngine s).trace = s.trace ∧ (resetEngine s).written = s.written) ∨
      ∃ r, s.currentFlight.outstanding = some r ∧ (resetEngine s).trace = s.trace ++ [⟨r, .abandoned⟩] ∧
        (resetEngine s).written = s.written.forgetRange r.addr r.payload.length := by
  cases h : s.currentFlight.outstanding with
  | none => left; simp [resetEngine, abandonTransaction, h]
  | some r => right; exact ⟨r, rfl, by simp [resetEngine, abandonTransaction, h]⟩

end Sys2Proof.Machine
end

section
/-! PROOFS. The parameters never change and the three records only grow. -/

namespace Sys2Proof.Machine

/-- The parameters are the same, and each record goes on from where it was. -/
def RecordsGrow (s t : State) : Prop :=
  t.cfg = s.cfg ∧ (∃ new, t.trace = s.trace ++ new) ∧
    (∃ reads, t.hostReads = s.hostReads ++ reads) ∧ ∃ errors, t.errorLog = s.errorLog ++ errors

theorem run_recordsGrow (p : Script) (s : State) : RecordsGrow s (p.run s) := by
  have hsame := run_untouched p s
  refine ⟨hsame.cfg, run_trace p s, ⟨[], by simp [hsame.hostReads]⟩, ?_⟩
  obtain ⟨hlog, -⟩ | ⟨c, hlog, -⟩ := run_errorLog p s
  · exact ⟨[], by simp [hlog]⟩
  · exact ⟨_, hlog⟩

theorem resetEngine_recordsGrow (s : State) : RecordsGrow s (resetEngine s) := by
  refine ⟨by simp, ?_, ⟨[], by simp⟩, ⟨[], by simp⟩⟩
  obtain ⟨htrace, -⟩ | ⟨r, -, htrace, -⟩ := resetEngine_device s
  · exact ⟨[], by simp [htrace]⟩
  · exact ⟨_, htrace⟩

theorem HostMove.recordsGrow {s t : State} (h : HostMove s t) : RecordsGrow s t := by
  cases h with
  | observes host reads => exact ⟨rfl, ⟨[], by simp⟩, ⟨reads, rfl⟩, ⟨[], by simp⟩⟩
  | commands host w => exact ⟨rfl, ⟨[], by simp⟩, ⟨[], by simp⟩, ⟨[], by simp⟩⟩
  | clears host => exact ⟨rfl, ⟨[], by simp⟩, ⟨[], by simp⟩, ⟨[], by simp⟩⟩
  | sets host r v => exact ⟨rfl, ⟨[], by simp⟩, ⟨[], by simp⟩, ⟨[], by simp⟩⟩
  | resets rest => exact resetEngine_recordsGrow { s with host := rest }

/-- Settles O44: a turn of a script and each move of the host only add to the records. -/
theorem parametersFixedAndRecordsGrow : Obligations.ParametersFixedAndRecordsGrow := by
  intro s t h
  obtain ⟨-, rfl⟩ | hmove | hmove := step_next_cases h
  · exact run_recordsGrow _ s.beginEngineTurn
  · exact hmove.recordsGrow
  · exact hmove.recordsGrow

end Sys2Proof.Machine
end

section
/-! PROOFS. Every step keeps the invariant. The part of it that does not speak of the command in progress holds
after each transaction of a turn; the rest is read off where a turn ends. -/

namespace Sys2Proof.Safety

open Sys2Proof.Machine

/-! ## The part without the command in progress -/

/-- The invariant without its two clauses on the command in progress. -/
structure EngineInv (s : State) : Prop where
  params_sound : s.cfg.Sound
  regs_fit : ∀ r : Reg, (s.x r).toNat < 2 ^ s.cfg.width
  cause_legal : s.errCause.toNat ≤ 4
  no_error_no_word : s.errCause = 0 → s.errCmd = 0
  written_wf : s.written.wf
  written_bound : ∀ c ∈ s.written, c.1 < s.cfg.deviceSize

theorem inv_iff (s : State) :
    Inv s ↔ EngineInv s ∧ (s.busy = true → s.errCause = 0) ∧ ∀ f, s.flight = some f → FlightFollows s f where
  mp := fun ⟨hcfg, hregs, hcause, hword, hbusy, hwf, hbound, hflight⟩ =>
    ⟨⟨hcfg, hregs, hcause, hword, hwf, hbound⟩, hbusy, hflight⟩
  mpr := fun ⟨⟨hcfg, hregs, hcause, hword, hwf, hbound⟩, hbusy, hflight⟩ =>
    ⟨hcfg, hregs, hcause, hword, hbusy, hwf, hbound, hflight⟩

/-- With no command in progress the rest of the invariant is enough. -/
theorem EngineInv.inv_of_idle {s : State} (h : EngineInv s) (idle : s.flight = none) : Inv s :=
  (inv_iff s).mpr ⟨h, by simp [State.busy, idle], by simp [idle]⟩

theorem EngineInv.setX {s : State} (h : EngineInv s) (r : Reg) (v : Int) : EngineInv (s.setX r v) where
  params_sound := h.params_sound
  regs_fit n := by
    rw [setX_x]
    split
    · exact regOf_lt _ v
    · exact h.regs_fit n
  cause_legal := h.cause_legal
  no_error_no_word := h.no_error_no_word
  written_wf := h.written_wf
  written_bound := h.written_bound

theorem EngineInv.writeRegs {s : State} (h : EngineInv s) (ws : List (Reg × Int)) :
    EngineInv (s.writeRegs ws) := by
  induction ws generalizing s with
  | nil => exact h
  | cons w rest ih => exact ih (h.setX w.1 w.2)

/-- R195: the codes are 1 to 4. -/
theorem code_legal (c : Cause) : c.code.toNat ≤ 4 ∧ c.code ≠ 0 := by cases c <;> decide

theorem EngineInv.enterError {s : State} (h : EngineInv s) (c : Cause) : EngineInv (enterError c s) where
  params_sound := h.params_sound
  regs_fit := h.regs_fit
  cause_legal := (code_legal c).1
  no_error_no_word hc := absurd hc (code_legal c).2
  written_wf := h.written_wf
  written_bound := h.written_bound

theorem EngineInv.withWritten {s : State} (h : EngineInv s) {m : Memory} (hwf : m.wf)
    (hbound : ∀ c ∈ m, c.1 < s.cfg.deviceSize) : EngineInv { s with written := m } :=
  ⟨h.params_sound, h.regs_fit, h.cause_legal, h.no_error_no_word, hwf, hbound⟩

theorem EngineInv.forget {s : State} (h : EngineInv s) (a n : Nat) :
    EngineInv { s with written := s.written.forgetRange a n } :=
  h.withWritten (Memory.wf_forgetRange n _ h.written_wf a)
    (Memory.bound_forgetRange n _ a _ h.written_bound)

/-- The device register space has the 256 addresses the commands keep to (assumption 2). -/
theorem EngineInv.addresses_fit {s : State} (h : EngineInv s) : 256 ≤ s.cfg.deviceSize :=
  Nat.pow_le_pow_right (n := 2) (by decide) h.params_sound.2

theorem EngineInv.write {s : State} (h : EngineInv s) {r : Request} (hr : r.Below 256) :
    EngineInv { s with written := s.written.writeBytes r.addr r.payload } :=
  h.withWritten (Memory.wf_writeBytes _ _ h.written_wf _)
    (Memory.bound_writeBytes _ _ _ _ h.written_bound (hr.2.trans h.addresses_fit))

/-- The fields `EngineInv` speaks of are all it depends on. -/
theorem EngineInv.congr {s t : State} (h : EngineInv s) (hcfg : t.cfg = s.cfg) (hregs : t.regs = s.regs)
    (hcause : t.errCause = s.errCause) (hcmd : t.errCmd = s.errCmd) (hwritten : t.written = s.written) :
    EngineInv t where
  params_sound := hcfg ▸ h.params_sound
  regs_fit := by simpa only [State.x, hregs, hcfg] using h.regs_fit
  cause_legal := hcause ▸ h.cause_legal
  no_error_no_word := by simpa only [hcause, hcmd] using h.no_error_no_word
  written_wf := hwritten ▸ h.written_wf
  written_bound := by simpa only [hwritten, hcfg] using h.written_bound

theorem engineInv_keptByTurn : KeptByTurn (Request.Below 256) EngineInv where
  finish ws _ h := (h.writeRegs ws).congr rfl rfl rfl rfl rfl
  raise c _ h := h.enterError c
  read _ _ _ _ h := h.congr rfl rfl rfl rfl rfl
  write _ _ hr h := (h.write hr).congr rfl rfl rfl rfl rfl
  fail r _ _ h := ((h.forget r.addr r.payload.length).enterError .transport).congr rfl rfl rfl rfl rfl
  await _ _ _ h := h.congr rfl rfl rfl rfl rfl

/-! ## The command in progress -/

/-- Where a command stands depends on CMD, the engine registers and the parameters only. -/
theorem FlightFollows.congr {s t : State} {f : Flight} (h : FlightFollows s f) (hcmd : t.cmd = s.cmd)
    (hregs : t.regs = s.regs) (hcfg : t.cfg = s.cfg) : FlightFollows t f := by
  refine h.imp_right ?_
  rintro ⟨i, p, r, hdecode, hafter, hrequest, houtstanding⟩
  refine ⟨i, p, r, ?_, ?_, hrequest, houtstanding⟩
  · rw [fetch, hcmd]; exact hdecode
  · rw [script_congr i t s hregs hcfg]; exact hafter

/-- A command in progress is taken up at the place in its script where it stands. -/
theorem FlightFollows.after_eq_resume {s : State} {f : Flight} {i : Instr} (h : FlightFollows s f)
    (hdecode : decode (fetch s) = .ok i) :
    (script i s).after f.position f.held = some ((script i s).resume f) := by
  obtain rfl | ⟨j, p, r, hj, hafter, -, -⟩ := h
  · rw [resume_fresh]; exact after_zero _
  · obtain rfl : j = i := Except.ok.inj (hj.symm.trans hdecode)
    rw [hafter, resume_of_after hafter]

/-- A turn of the engine that waits leaves the command where its script waits. -/
theorem turn_flightFollows {s : State} {f g : Flight} (hf : s.flight = some f) (h : FlightFollows s f)
    (hg : ((turnScript s).run s).flight = some g) : FlightFollows ((turnScript s).run s) g := by
  obtain ⟨hended, -⟩ | hwaits := run_ends (turnScript s) s
  · simp [hended] at hg
  have hsame := run_untouched (turnScript s) s
  refine FlightFollows.congr (s := s) (.inr ?_) hsame.cmd hwaits.regs hsame.cfg
  cases hdecode : decode (fetch s) with
  | error e => simp [turnScript_of_error hdecode] at hg
  | ok i =>
    rw [turnScript_of_ok hdecode, currentFlight_of_some s f hf] at hg
    obtain ⟨p, r, hafter, hrequest, houtstanding⟩ := run_waits_at (script i s) _ s g
      (by rw [currentFlight_of_some s f hf]; exact h.after_eq_resume hdecode) hg
    exact ⟨i, p, r, rfl, hafter, hrequest, houtstanding⟩

/-! ## The two agents -/

theorem inv_turn {s : State} (h : Inv s) (hbusy : s.busy = true) : Inv ((turnScript s).run s) := by
  obtain ⟨hengine, hclear, hflight⟩ := (inv_iff s).mp h
  refine (inv_iff _).mpr ⟨engineInv_keptByTurn.run (turnScript_below s) hengine, fun hb => ?_, fun g hg => ?_⟩
  · obtain ⟨hended, -⟩ | hwaits := run_ends (turnScript s) s
    · simp [State.busy, hended] at hb
    · rw [hwaits.errCause]; exact hclear hbusy
  · obtain ⟨f, hf⟩ := Option.isSome_iff_exists.mp hbusy
    exact turn_flightFollows hf (hflight f hf) hg

/-- The invariant speaks of the engine and the device only, not of the host, the turns or the host's reads. -/
theorem inv_outside {s : State} (h : Inv s) (host : List HostAction) (turns : List Nat) (turnDraws : Nat)
    (reads : List HostRead) :
    Inv { s with host := host, turns := turns, turnDraws := turnDraws, hostReads := reads } := by
  obtain ⟨hengine, hclear, hflight⟩ := (inv_iff s).mp h
  exact (inv_iff _).mpr ⟨hengine.congr rfl rfl rfl rfl rfl, hclear,
    fun f hf => (hflight f hf).congr rfl rfl rfl⟩

theorem inv_acceptCommand {s : State} (h : Inv s) (w : CmdWord) (noError : s.errCause = 0) :
    Inv (acceptCommand w s) := by
  obtain ⟨hengine, -, -⟩ := (inv_iff s).mp h
  refine (inv_iff _).mpr ⟨hengine.congr rfl rfl rfl rfl rfl, fun _ => noError, fun f hf => .inl ?_⟩
  exact (Option.some.inj hf).symm

theorem inv_clearError {s : State} (h : Inv s) : Inv (clearError s) := by
  obtain ⟨hengine, -, hflight⟩ := (inv_iff s).mp h
  refine (inv_iff _).mpr ⟨?_, fun _ => rfl, fun f hf => (hflight f hf).congr rfl rfl rfl⟩
  exact ⟨hengine.params_sound, hengine.regs_fit, by simp, fun _ => rfl, hengine.written_wf,
    hengine.written_bound⟩

theorem inv_resetEngine {s : State} (h : Inv s) : Inv (resetEngine s) := by
  obtain ⟨hengine, -, -⟩ := (inv_iff s).mp h
  refine EngineInv.inv_of_idle ⟨?_, fun r => ?_, by simp, fun _ => rfl, ?_, ?_⟩ rfl
  · simpa using hengine.params_sound
  · simp [State.x]
  all_goals
    obtain ⟨-, hwritten⟩ | ⟨r, -, -, hwritten⟩ := resetEngine_device s <;> rw [hwritten]
  · exact hengine.written_wf
  · exact (hengine.forget _ _).written_wf
  · simpa using hengine.written_bound
  · simpa using (hengine.forget r.addr r.payload.length).written_bound

theorem inv_hostMove {s t : State} (h : Inv s) (hmove : HostMove s t) : Inv t := by
  cases hmove with
  | observes host reads => exact inv_outside h host s.turns s.turnDraws _
  | commands host w _ noError => exact inv_acceptCommand (inv_outside h host s.turns s.turnDraws _) w noError
  | clears host => exact inv_clearError (inv_outside h host s.turns s.turnDraws _)
  | sets host r v idle =>
    obtain ⟨hengine, -, -⟩ := (inv_iff _).mp (inv_outside h host s.turns s.turnDraws s.hostReads)
    exact (hengine.setX r v).inv_of_idle idle
  | resets rest => exact inv_resetEngine (inv_outside h rest s.turns s.turnDraws _)

/-- Settles O46: a turn of the engine and each move of the host keep the invariant. -/
theorem stepKeepsInvariant : Obligations.StepKeepsInvariant := by
  intro s t h hstep
  obtain ⟨hbusy, rfl⟩ | hmove | hmove := step_next_cases hstep
  · exact inv_turn (inv_outside h s.host _ _ s.hostReads) hbusy
  · exact inv_hostMove h hmove
  · exact inv_hostMove (inv_outside h s.host _ s.turnDraws s.hostReads) hmove

end Sys2Proof.Safety
end

section
/-! PROOFS. The host's reads and writes, register by register of the map of R32: what each returns or changes, and
how a command is accepted and ends (R33). -/

namespace Sys2Proof.Machine

/-! ## The host's turn at any time -/

/-- The state the host's next action acts on: the action is taken from the list and, where a command is in progress,
one of the host's turns is used up. -/
def State.atHostTurn (s : State) (rest : List HostAction) : State :=
  { s with host := rest, turns := if s.busy then (s.hostTurnsLeft - 1) :: s.turns.tail else s.turns }

@[simp] theorem atHostTurn_busy (s : State) (rest : List HostAction) : (s.atHostTurn rest).busy = s.busy := rfl

theorem atHostTurn_of_idle {s : State} (idle : s.flight = none) (rest : List HostAction) :
    s.atHostTurn rest = { s with host := rest } := by simp [State.atHostTurn, State.busy, idle]

theorem idle_host_moves {s : State} (idle : s.flight = none) : s.busy = true → s.hostTurnsLeft ≠ 0 := by
  simp [State.busy, idle]

theorem step_write {s : State} {offset : Nat} {v : Word} {rest : List HostAction}
    (hturn : s.busy = true → s.hostTurnsLeft ≠ 0) (hhost : s.host = .write offset v :: rest) :
    step s = hostWrite offset v (s.atHostTurn rest) := by
  rw [step_of_host s hturn, hostTurn_write _ offset v rest (by split <;> exact hhost), State.atHostTurn]
  cases s.busy <;> rfl

theorem step_read {s : State} {offset : Nat} {rest : List HostAction}
    (hturn : s.busy = true → s.hostTurnsLeft ≠ 0) (hhost : s.host = .read offset :: rest) :
    step s = hostRead offset (s.atHostTurn rest) := by
  rw [step_of_host s hturn, hostTurn_read _ offset rest (by split <;> exact hhost), State.atHostTurn]
  cases s.busy <;> rfl

/-! ## Reads -/

theorem hostRead_of_hostReg {offset : Nat} {r : HostReg} (h : hostReg offset = some r) (s : State) :
    hostRead offset s = .next { s with hostReads := s.hostReads ++ [⟨offset, hostValue r s⟩] } := by
  simp only [hostRead, h]

/-- STATUS as a number: bit 0 BUSY, bit 1 ERR (R32). -/
theorem statusWord_eq_ofNat (s : State) :
    s.statusWord =
      BitVec.ofNat 64 ((if s.busy then 1 else 0) + (if s.errCause ≠ 0 then 2 else 0)) := by
  unfold State.statusWord
  by_cases herr : s.errCause = 0#4
  · cases s.busy <;> simp [herr]
  · cases s.busy <;> simp [herr, bne_iff_ne.mpr herr]

/-- Settles O12: each offset names one register, and the turn records that register's value. -/
theorem hostReadsReturnCurrentValues : Obligations.HostReadsReturnCurrentValues := by
  intro s offset value rest hhost hturn hvalue
  have hread : ∃ r, hostReg offset = some r ∧ hostValue r (s.atHostTurn rest) = value := by
    obtain ⟨rfl, rfl⟩ | ⟨rfl, rfl⟩ | ⟨rfl, rfl⟩ | ⟨rfl, rfl⟩ | ⟨r, rfl, rfl⟩ := hvalue
    · exact ⟨.cmd, rfl, (BitVec.ofNat_toNat ..).symm⟩
    · exact ⟨.status, rfl, statusWord_eq_ofNat _⟩
    · exact ⟨.errCause, rfl, (BitVec.ofNat_toNat ..).symm⟩
    · exact ⟨.errCmd, rfl, (BitVec.ofNat_toNat ..).symm⟩
    · exact ⟨.engine r, hostReg_engine r, rfl⟩
  obtain ⟨r, hreg, rfl⟩ := hread
  rw [step_read hturn hhost, hostRead_of_hostReg hreg]
  rfl

/-! ## Writes -/

theorem hostWrite_cmd (v : Word) (s : State) :
    hostWrite 0x000 v s =
      if s.busy then .refused .commandWriteWhileBusy else .next (hostCommand (v.setWidth 32) s) := rfl

/-- STATUS and ERRCMD ignore writes (R32, R205). -/
theorem hostWrite_readOnly {offset : Nat} (h : offset = 0x008 ∨ offset = 0x018) (v : Word) (s : State) :
    hostWrite offset v s = .next s := by
  obtain rfl | rfl := h <;> rfl

theorem hostWrite_engine (r : Reg) (v : Word) {s : State} (idle : s.flight = none) :
    hostWrite (0x080 + 8 * r.index) v s = .next (s.setX r v.toNat) := by
  simp [hostWrite, hostReg_engine, State.busy, idle]

/-- A register holds the number of W bits that a host word is modulo 2^W (R10). -/
theorem toNat_regOf_word (w : Nat) (v : Word) : (regOf w (v.toNat : Int)).toNat = v.toNat % 2 ^ w := by
  have hmod : (v.toNat : Int) % 2 ^ w = ((v.toNat % 2 ^ w : Nat) : Int) := by push_cast; rfl
  rw [regOf, hmod, BitVec.ofInt_natCast, BitVec.toNat_ofNat]
  exact Nat.mod_eq_of_lt ((Nat.mod_le _ _).trans_lt v.isLt)

/-- Settles O13: STATUS and ERRCMD ignore writes; an engine register takes the word modulo 2^W. -/
theorem hostWritesOutsideCmd : Obligations.HostWritesOutsideCmd := by
  intro s v rest
  refine ⟨fun offset hoffset hhost hturn => ?_, fun r idle hhost => ?_⟩
  · rw [step_write hturn hhost, hostWrite_readOnly hoffset]
    rfl
  · refine ⟨State.setX { s with host := rest } r v.toNat, ?_, rfl, ?_, fun q hq => ?_⟩
    · rw [step_write (idle_host_moves idle) hhost, atHostTurn_of_idle idle]
      exact hostWrite_engine r v idle
    · rw [setX_x, if_pos rfl]
      exact toNat_regOf_word _ v
    · rw [setX_x, if_neg hq]
      rfl

/-! ## Acceptance and the end of a command (R33) -/

/-- With BUSY = 0 a write to CMD is a command offered to the engine. -/
theorem step_write_cmd {s : State} {v : Word} {rest : List HostAction} (idle : s.flight = none)
    (hhost : s.host = .write 0x000 v :: rest) :
    step s = .next (hostCommand (v.extractLsb' 0 32) { s with host := rest }) := by
  rw [step_write (idle_host_moves idle) hhost, hostWrite_cmd, atHostTurn_busy,
    BitVec.setWidth_eq_extractLsb' (by decide), atHostTurn_of_idle idle, State.busy, idle]
  rfl

/-- Every turn of the engine ends the command and counts it, or leaves it in progress uncounted. -/
theorem run_counts (p : Script) (s : State) :
    ((p.run s).busy = false ∧ (p.run s).ci = s.ci + 1) ∨ ((p.run s).busy = true ∧ (p.run s).ci = s.ci) := by
  obtain ⟨hflight, hci⟩ | ⟨⟨n, held, r, hflight⟩, -, -, -, hci⟩ := run_ends p s
  · exact .inl ⟨by simp [State.busy, hflight], hci⟩
  · exact .inr ⟨by simp [State.busy, hflight], hci⟩

/-- Settles O8: acceptance goes by BUSY and ERRCAUSE, and a turn of the engine ends a command or keeps it. -/
theorem hostWriteToCmd : Obligations.HostWriteToCmd := by
  refine ⟨fun s v rest hhost => ⟨fun idle noError => ?_, fun idle error => ?_, fun f hf hturn => ?_⟩, ?_⟩
  · rw [step_write_cmd idle hhost]
    exact congrArg _ (if_pos noError)
  · rw [step_write_cmd idle hhost]
    exact congrArg _ (if_neg error)
  · have hbusy : (s.atHostTurn rest).busy = true := by rw [atHostTurn_busy, State.busy, hf]; rfl
    rw [step_write (fun _ => hturn) hhost, hostWrite_cmd, if_pos hbusy]
  · intro i s t h
    rw [exec_eq] at h
    cases h
    exact run_counts _ s

end Sys2Proof.Machine
end

section
/-! PROOFS. What every step keeps of the engine's bookkeeping: the recorded error (R36), the command index (R34), and
the values both start from at reset (R39). -/

namespace Sys2Proof.Machine

/-! ## The reset state -/

/-- Settles O17: every field is 0 in the reset state, and the register file is all zeros. -/
theorem resetValues : Obligations.ResetValues :=
  ⟨zero_get, rfl, rfl, rfl, rfl, rfl, rfl⟩

/-- Settles O45: at reset the registers are 0, no byte is known and no command is in progress. -/
theorem invariantHoldsAtReset : Obligations.InvariantHoldsAtReset where
  params_sound := by decide
  regs_fit r := by
    have hzero : State.reset.x r = 0 := zero_get r
    rw [hzero]
    exact Nat.two_pow_pos _
  cause_legal := Nat.zero_le _
  no_error_no_word _ := rfl
  busy_no_error _ := rfl
  written_wf := .nil
  written_bound _ h := nomatch h
  flight_follows _ h := nomatch h

/-! ## The engine's turn -/

/-- Settles O6: with no host turn left the engine moves, and CMD is the word it decodes. -/
theorem stepRunsTheAcceptedCommand : Obligations.StepRunsTheAcceptedCommand := by
  intro s f i hf hturn hdecode
  have hfetch : decode (fetch s.beginEngineTurn) = .ok i := hdecode
  rw [step_engine s f hf hturn, engineStep, hfetch]
  rfl

/-! ## The command index -/

/-- The host never ends a command, and the only ci it brings is the 0 of a reset. -/
theorem HostMove.keeps_ci {s t : State} (h : HostMove s t) :
    (t.ci = s.ci ∧ (s.busy = true → t.busy = true)) ∨ (t.ci = 0 ∧ ∃ rest, s.host = .reset :: rest) := by
  cases h with
  | observes host reads => exact .inl ⟨rfl, id⟩
  | commands host w => exact .inl ⟨rfl, fun _ => rfl⟩
  | clears host => exact .inl ⟨rfl, id⟩
  | sets host r v => exact .inl ⟨rfl, id⟩
  | resets rest next => exact .inr ⟨rfl, rest, next⟩

/-- Settles O42: the engine's turn ends a command and counts it, or does neither; the host only resets. -/
theorem commandIndexCountsCompletions : Obligations.CommandIndexCountsCompletions := by
  intro s t h
  obtain ⟨hbusy, rfl⟩ | hmove | hmove := step_next_cases h
  · obtain ⟨hended, hci⟩ | ⟨hwaits, hci⟩ := run_counts (turnScript s.beginEngineTurn) s.beginEngineTurn
    · exact .inr (.inl ⟨hci, hbusy, hended⟩)
    · exact .inl ⟨hci, fun _ => hwaits⟩
  · exact hmove.keeps_ci.imp_right .inr
  · exact hmove.keeps_ci.imp_right .inr

/-! ## The recorded error -/

theorem eq_of_hostReg_errCause {offset : Nat} (h : hostReg offset = some .errCause) : offset = 0x010 := by
  unfold hostReg at h
  split_ifs at h with _ _ hoffset <;> simp_all

/-- What a host write can do: nothing, a cleared error, or, with BUSY = 0, an accepted command or one register
written. -/
theorem hostWrite_next_cases {offset : Nat} {v : Word} {s t : State} (h : hostWrite offset v s = .next t) :
    t = s ∨ (offset = 0x010 ∧ t = clearError s) ∨
      (s.busy = false ∧ ((∃ w, t = acceptCommand w s) ∨ ∃ r n, t = s.setX r n)) := by
  unfold hostWrite at h
  split at h
  case h_1 => cases h
  case h_2 =>
    split at h <;> cases h
    case isFalse idle =>
      unfold hostCommand
      split
      · exact .inr (.inr ⟨eq_false_of_ne_true idle, .inl ⟨_, rfl⟩⟩)
      · exact .inl rfl
  case h_3 => cases h; exact .inl rfl
  case h_4 hreg => cases h; exact .inr (.inl ⟨eq_of_hostReg_errCause hreg, rfl⟩)
  case h_5 => cases h; exact .inl rfl
  case h_6 =>
    split at h <;> cases h
    case isFalse idle => exact .inr (.inr ⟨eq_false_of_ne_true idle, .inr ⟨_, _, rfl⟩⟩)

/-- What a host read can do: it goes into the host's record. -/
theorem hostRead_next {offset : Nat} {host : List HostAction} {s t : State}
    (h : hostRead offset { s with host := host } = .next t) :
    ∃ reads, t = { s with host := host, hostReads := reads } := by
  unfold hostRead at h
  split at h <;> cases h
  exact ⟨_, rfl⟩

/-- What a turn of the host can do: it touches its own list and record only, it writes a register, or it resets the
engine; and its list never gains a reset. -/
theorem hostTurn_next_cases {s t : State} (h : hostTurn s = .next t) :
    ∃ host, (.reset ∈ host → .reset ∈ s.host) ∧
      ((∃ reads, t = { s with host := host, hostReads := reads }) ∨
        (∃ offset v, s.host = .write offset v :: host ∧
          hostWrite offset v { s with host := host } = .next t) ∨
        (s.host = .reset :: host ∧ t = resetEngine { s with host := host })) := by
  cases hs : s.host with
  | nil => rw [hostTurn_nil s hs] at h; cases h; exact ⟨s.host, hs ▸ id, .inl ⟨_, rfl⟩⟩
  | cons action rest =>
    have hrest : .reset ∈ rest → .reset ∈ action :: rest := List.mem_cons_of_mem action
    cases action with
    | write offset v =>
      rw [hostTurn_write s _ _ _ hs] at h
      exact ⟨rest, hrest, .inr (.inl ⟨offset, v, rfl, h⟩)⟩
    | read offset => rw [hostTurn_read s _ _ hs] at h; exact ⟨rest, hrest, .inl (hostRead_next h)⟩
    | waitIdle =>
      rw [hostTurn_wait s _ hs] at h
      split at h
      · exact ⟨s.host, hs ▸ id, .inl (hostRead_next h)⟩
      · exact ⟨rest, hrest, .inl (hostRead_next h)⟩
    | reset =>
      rw [hostTurn_reset s _ hs] at h
      cases h
      exact ⟨rest, hrest, .inr (.inr ⟨rfl, rfl⟩)⟩
    | pollInit =>
      rw [hostTurn_pollInit s _ hs] at h
      cases h
      refine ⟨pollRound ++ rest, fun hmem => hrest ?_, .inl ⟨_, rfl⟩⟩
      simpa [pollRound, commandActions, hwait] using hmem
    | pollCheck =>
      rw [hostTurn_pollCheck s _ hs] at h
      refine ⟨_, fun hmem => hrest ?_, .inl (hostRead_next h)⟩
      split at hmem
      · simpa using hmem
      · exact hmem

/-- A turn of the host keeps the recorded error unless it clears it or resets the engine (R199, R215). -/
theorem hostTurn_error {s t : State} (h : hostTurn s = .next t) :
    (t.errCause = s.errCause ∧ t.errCmd = s.errCmd) ∨
      (∃ v rest, s.host = .write 0x010 v :: rest ∧ t.errCause = 0 ∧ t.errCmd = 0) ∨
      ∃ rest, s.host = .reset :: rest := by
  obtain ⟨host, -, ⟨reads, rfl⟩ | ⟨offset, v, hhost, hwrite⟩ | ⟨hhost, -⟩⟩ := hostTurn_next_cases h
  · exact .inl ⟨rfl, rfl⟩
  · obtain rfl | ⟨rfl, rfl⟩ | ⟨-, ⟨w, rfl⟩ | ⟨r, n, rfl⟩⟩ := hostWrite_next_cases hwrite
    · exact .inl ⟨rfl, rfl⟩
    · exact .inr (.inl ⟨v, host, hhost, rfl, rfl⟩)
    · exact .inl ⟨rfl, rfl⟩
    · exact .inl ⟨rfl, rfl⟩
  · exact .inr (.inr ⟨host, hhost⟩)

/-- Settles O10: with an error pending no command is in progress, so the host moves. -/
theorem firstErrorStaysRecorded : Obligations.FirstErrorStaysRecorded := by
  intro s t hinv hstep
  refine ⟨(Safety.stepKeepsInvariant s t hinv hstep).cause_legal, fun herror => ?_⟩
  have idle : s.flight = none := by
    cases hf : s.flight with
    | none => rfl
    | some f => exact absurd (hinv.busy_no_error (by simp [State.busy, hf])) herror
  rw [step_idle s idle] at hstep
  exact hostTurn_error hstep

end Sys2Proof.Machine
end

section
/-! PROOFS. A command writes only the engine registers the index map names for it, wherever its script is taken up
(R20, R30). -/

namespace Sys2Proof.Machine

/-! ## The registers a script can write -/

/-- A property that what is left of a script inherits, whatever bytes its reads return. -/
structure Script.Inherited (P : Script → Prop) : Prop where
  readByte : ∀ a k b, P (.readByte a k) → P (k b)
  writeByte : ∀ a v k, P (.writeByte a v k) → P k
  writeBulk : ∀ a bs k, P (.writeBulk a bs k) → P k

theorem Script.Inherited.after {P : Script → Prop} (hP : Script.Inherited P) {p q : Script} {n : Nat}
    {held : List Byte} (hp : P p) (h : p.after n held = some q) : P q := by
  fun_induction Script.after p n held with
  | case1 p => exact Option.some.inj h ▸ hp
  | case2 a k n b rest ih => exact ih (hP.readByte a k b hp) h
  | case3 a v k n held ih => exact ih (hP.writeByte a v k hp) h
  | case4 a bs k n held ih => exact ih (hP.writeBulk a bs k hp) h
  | case5 => cases h

theorem Script.Inherited.resume {P : Script → Prop} (hP : Script.Inherited P) {p : Script} (hp : P p)
    (f : Flight) : P (p.resume f) := by
  cases h : p.after f.position f.held with
  | none => simpa [Script.resume, h] using hp
  | some q => rw [resume_of_after h]; exact hP.after hp h

/-- However the script ends, the engine registers it writes are among `rs`. -/
@[simp] def Script.WritesOnly (rs : List Reg) : Script → Prop
  | .finish ws => ws.map Prod.fst ⊆ rs
  | .raise _ => True
  | .readByte _ k => ∀ b, (k b).WritesOnly rs
  | .writeByte _ _ k => k.WritesOnly rs
  | .writeBulk _ _ k => k.WritesOnly rs

theorem writesOnly_inherited (rs : List Reg) : Script.Inherited (Script.WritesOnly rs) :=
  ⟨fun _ _ b h => h b, fun _ _ _ h => h, fun _ _ _ h => h⟩

theorem writesOnly_whenLegal {rs : List Reg} (ok : Bool) {p : Script} (hp : p.WritesOnly rs) :
    (Script.whenLegal ok p).WritesOnly rs := by
  cases ok
  · trivial
  · exact hp

theorem run_x_of_not_mem {rs : List Reg} {r : Reg} (hr : r ∉ rs) {p : Script} (hp : p.WritesOnly rs)
    (s : State) : (p.run s).x r = s.x r := by
  induction p generalizing s with
  | finish ws => exact writeRegs_x_of_not_mem ws s r fun hmem => hr (hp hmem)
  | raise c => rfl
  | readByte a k ih =>
    simp only [Script.run]
    split
    · exact ih _ (hp _) _
    · rfl
    · rfl
  | writeByte a v k ih =>
    simp only [Script.run]
    split
    · exact ih hp _
    · rfl
    · rfl
  | writeBulk a bs k ih =>
    simp only [Script.run]
    split
    · exact ih hp _
    · rfl
    · rfl

/-- The engine registers the index map names for a command (R20, R30). -/
def writtenRegs (i : Instr) : List Reg :=
  match i with
  | .pllCalc | .pllCalcVcxo => [.a, .b, .c, .p1, .p2, .p3, .rf, .refc, .flags]
  | .msCalc => [.a, .b, .c, .p1, .p2, .p3, .rf, .flags]
  | .ms67Calc => [.a, .b, .c, .rf, .flags]
  | .rdivSel | .rdiv67Sel => [.freq, .rdiv]
  | .statusRd => [.stat]
  | .nop | .packPll _ | .packMs _ | .packMs67 _ | .msctlWr _ | .fieldWr _ _ _ | .pllRst _ _ | .packVcxo => []

theorem pllScript_writesOnly (rf : PllResult → Int) (s : State) :
    (pllScript rf s).WritesOnly [.a, .b, .c, .p1, .p2, .p3, .rf, .refc, .flags] := by
  unfold pllScript; dsimp only; split <;> simp [pllWrites]

theorem script_writesOnly (i : Instr) (s : State) : (script i s).WritesOnly (writtenRegs i) := by
  cases i with
  | nop => simp [script, scriptNop]
  | pllCalc => rw [script, scriptPllCalc]; exact pllScript_writesOnly _ s
  | pllCalcVcxo => rw [script, scriptPllCalcVcxo]; exact pllScript_writesOnly _ s
  | msCalc =>
    rw [script, scriptMsCalc]
    split <;> simp [msWrites, writtenRegs]
  | ms67Calc =>
    simp only [script, scriptMs67Calc, ms67Writes]
    split <;> simp [writtenRegs]
  | rdivSel => simp [script, scriptRdivSel, rdivScript, writtenRegs]
  | rdiv67Sel => simp [script, scriptRdiv67Sel, rdivScript, writtenRegs]
  | packPll p => simp [script, scriptPackPll]
  | packMs ch => exact writesOnly_whenLegal _ (by simp)
  | packMs67 ch => exact writesOnly_whenLegal _ (by simp)
  | msctlWr ch =>
    simp only [script, scriptMsctlWr]
    split_ifs <;> simp
  | fieldWr f ch imm => exact writesOnly_whenLegal _ (by simp [rmw])
  | pllRst resetA resetB => exact writesOnly_whenLegal _ (by simp)
  | packVcxo => simp [script, scriptPackVcxo]
  | statusRd => simp [script, scriptStatusRd, writtenRegs]

/-- Settles O34: however a command's script ends, the registers it writes are those of its row. -/
theorem onlyListedRegistersAreWritten : Obligations.OnlyListedRegistersAreWritten := by
  intro i s t h
  rw [exec_eq] at h
  cases h
  obtain ⟨hcmd, hcfg, hhost, hturns, hturnDraws, hreads⟩ :=
    run_untouched ((script i s).resume s.currentFlight) s
  refine ⟨fun r hr => ?_, hcmd, hcfg, hhost, hturns, hturnDraws, hreads⟩
  have hlisted : r ∉ writtenRegs i := by cases i <;> exact hr
  exact run_x_of_not_mem hlisted ((writesOnly_inherited _).resume (script_writesOnly i s) _) s

end Sys2Proof.Machine
end

section
/-! PROOFS. STATUS_RD, its two reads answered, decodes them into STAT (R31, R180). -/

namespace Sys2Proof.Machine

theorem statWord_high (s0 s1 : Byte) : (statWord s0 s1).extractLsb' 32 32 = 0 := by
  ext i hi
  simp (disch := omega) [statWord, BitVec.getLsbD_of_ge]

/-- A register of 32 bits or more holds the whole device status. -/
theorem regOf_statWord {w : Nat} (hw : 32 ≤ w) (s0 s1 : Byte) :
    regOf w (statWord s0 s1).toNat = statWord s0 s1 := by
  refine regOf_toNat w _ (lt_of_lt_of_le ?_ (Nat.pow_le_pow_right (n := 2) (by decide) hw))
  have hhigh : (statWord s0 s1).toNat / 2 ^ 32 % 2 ^ 32 = 0 := by
    rw [← Nat.shiftRight_eq_div_pow, ← BitVec.extractLsb'_toNat, statWord_high]
    rfl
  have hlt := (statWord s0 s1).isLt
  omega

/-- Settles O29: the two reads answered, STAT holds the two bytes in the layout of R31. -/
theorem statusRdResult : Obligations.StatusRdResult := by
  intro s s0 s1 hflight hwidth hreply0 hreply1
  refine ⟨statWord s0 s1, ?_, ?_⟩
  · have hnext : (readCompleted 0 s0 s.dropReply).replyAt 0 = .returns s1 := by simpa using hreply1
    rw [exec_starting _ s hflight, script, scriptStatusRd, run_readByte_returns 0 _ s s0 hreply0,
      run_readByte_returns 1 _ _ s1 hnext, run_finish]
    simp [State.writeRegs, State.setX, Regs.set, completeCommand, readCompleted, State.dropReply,
      regOf_statWord hwidth]
    rw [← List.drop_one, List.drop_tail]
  · refine ⟨?_, ?_, ?_, ?_, ?_, ?_, ?_, ?_, ?_, ?_, ?_, ?_, ?_, statWord_high s0 s1⟩ <;>
    · ext i hi
      interval_cases i <;> simp [statWord]

end Sys2Proof.Machine
end

section
/-! PROOFS. A word that decodes is a legal command: its operands are those its row admits (R77, R79, R156). -/

namespace Sys2Proof

theorem wf_of_decodePlain {f : Fields} {i j : Instr} (hj : j.wf = true) (h : f.decodePlain j = .ok i) :
    i.wf = true := by
  unfold Fields.decodePlain at h
  split at h <;> cases h
  exact hj

theorem wf_of_decodePackPll {f : Fields} {i : Instr} (h : f.decodePackPll = .ok i) : i.wf = true := by
  unfold Fields.decodePackPll at h
  split_ifs at h
  · cases h; rfl
  · cases h; rfl

theorem wf_of_decodeChannel {f : Fields} {i : Instr} {command : Channel → Instr}
    (h : f.decodeChannel command = .ok i) : i.wf = true := by
  unfold Fields.decodeChannel at h
  split_ifs at h with _ hwf
  cases h
  exact hwf

theorem wf_of_decodeFieldWr {f : Fields} {i : Instr} (h : f.decodeFieldWr = .ok i) : i.wf = true := by
  unfold Fields.decodeFieldWr at h
  split at h
  · split at h
    · cases h
    · split_ifs at h with hlegal hfits
      cases h
      simp [Instr.wf, hlegal, hfits]
  · cases h

theorem wf_of_decodePllRst {f : Fields} {i : Instr} (h : f.decodePllRst = .ok i) : i.wf = true := by
  have hmask : ∀ ps : BitVec 2, ps ≠ 0 → (ps.getLsbD 0 || ps.getLsbD 1) = true := by decide
  unfold Fields.decodePllRst at h
  split_ifs at h with _ hps
  cases h
  exact hmask _ hps

theorem wf_of_decode {w : CmdWord} {i : Instr} (h : decode w = .ok i) : i.WellFormed := by
  unfold decode Fields.decode at h
  split at h
  case isFalse => cases h
  case isTrue =>
    split at h
    case h_8 => exact wf_of_decodePackPll h
    case h_9 | h_10 | h_11 => exact wf_of_decodeChannel h
    case h_12 => exact wf_of_decodeFieldWr h
    case h_13 => exact wf_of_decodePllRst h
    case h_16 => cases h
    all_goals exact wf_of_decodePlain rfl h

end Sys2Proof
end

section
/-! PROOFS. While the call a command made first does not return, no step completes anything (R35). -/

namespace Sys2Proof.Machine

/-! ## The first transaction of a command -/

/-- The commands that never call the Register Port (R56, R225). -/
abbrev callFree : List Instr := [.nop, .pllCalc, .pllCalcVcxo, .msCalc, .ms67Calc, .rdivSel, .rdiv67Sel]

theorem whenLegal_of_legal {ok : Bool} (h : ok = true) (p : Script) : Script.whenLegal ok p = p := if_pos h

theorem script_request {i : Instr} (hwf : i.WellFormed) (hcalls : i ∉ callFree) (s : State) :
    ∃ r, (script i s).request = some r := by
  cases i with
  | nop | pllCalc | pllCalcVcxo | msCalc | ms67Calc | rdivSel | rdiv67Sel => exact absurd (by decide) hcalls
  | packPll p => exact ⟨_, rfl⟩
  | packMs ch => rw [script, scriptPackMs, whenLegal_of_legal hwf]; exact ⟨_, rfl⟩
  | packMs67 ch => rw [script, scriptPackMs67, whenLegal_of_legal hwf]; exact ⟨_, rfl⟩
  | msctlWr ch =>
    rw [script, scriptMsctlWr]
    split_ifs
    · exact ⟨_, rfl⟩
    · exact ⟨_, rfl⟩
    · exact ⟨_, rfl⟩
  | fieldWr f ch imm => rw [script, scriptFieldWr, whenLegal_of_legal hwf]; exact ⟨_, rfl⟩
  | pllRst resetA resetB => rw [script, scriptPllRst, whenLegal_of_legal hwf]; exact ⟨_, rfl⟩
  | packVcxo => exact ⟨_, rfl⟩
  | statusRd => exact ⟨_, rfl⟩

/-! ## Waiting -/

/-- Command `i` is in progress, none of its transactions has completed, and no reset is to come. -/
structure Unanswered (i : Instr) (s : State) : Prop where
  flight : ∃ outstanding, s.flight = some ⟨0, [], outstanding⟩
  decodes : decode s.cmd = .ok i
  no_reset : .reset ∉ s.host

/-- From `s` to `t` the command has only waited, and at most one reply was drawn. -/
abbrev OnlyWaits (i : Instr) (s t : State) : Prop :=
  Unanswered i t ∧ (t.trace = s.trace ∧ t.written = s.written ∧ t.regs = s.regs ∧ t.ci = s.ci) ∧
    ∃ d ≤ 1, ∀ k, t.replyAt k = s.replyAt (k + d)

theorem Unanswered.busy {i : Instr} {s : State} (h : Unanswered i s) : s.busy = true := by
  obtain ⟨outstanding, hflight⟩ := h.flight
  simp [State.busy, hflight]

/-- Asked for its answer, a port that stays silent leaves the command where it was. -/
theorem Unanswered.onlyWaits_of_engineStep {i : Instr} {s t : State} (h : Unanswered i s) (hcalls : i ∉ callFree)
    (silent : s.replyAt 0 = .silent) (hstep : engineStep s = .next t) : OnlyWaits i s t := by
  obtain ⟨⟨outstanding, hflight⟩, hdecode, hreset⟩ := h
  have hcurrent := currentFlight_of_some s _ hflight
  have hscript : turnScript s = script i s := by
    rw [turnScript_of_ok hdecode, hcurrent]
    exact resume_of_after (after_zero _)
  obtain ⟨r, hrequest⟩ := script_request (wf_of_decode hdecode) hcalls s
  rw [engineStep_eq_run, hscript, run_silent _ r s hrequest silent] at hstep
  cases hstep
  refine ⟨⟨⟨some r, ?_⟩, hdecode, hreset⟩, ⟨rfl, rfl, rfl, rfl⟩, 1, le_rfl, replyAt_dropReply s⟩
  rw [awaitPort_flight, dropReply_currentFlight, hcurrent]

/-- A busy engine is reached by the host's reads, polls and clears only. -/
theorem Unanswered.onlyWaits_of_hostTurn {i : Instr} {s t : State} (h : Unanswered i s)
    (hstep : hostTurn s = .next t) : OnlyWaits i s t := by
  have hbusy := h.busy
  obtain ⟨hflight, hdecode, hreset⟩ := h
  obtain ⟨host, hhost, ⟨reads, rfl⟩ | ⟨offset, v, -, hwrite⟩ | ⟨hs, -⟩⟩ := hostTurn_next_cases hstep
  · exact ⟨⟨hflight, hdecode, hreset ∘ hhost⟩, ⟨rfl, rfl, rfl, rfl⟩, 0, by decide, fun _ => rfl⟩
  · obtain rfl | ⟨-, rfl⟩ | ⟨idle, -⟩ := hostWrite_next_cases hwrite
    · exact ⟨⟨hflight, hdecode, hreset ∘ hhost⟩, ⟨rfl, rfl, rfl, rfl⟩, 0, by decide, fun _ => rfl⟩
    · exact ⟨⟨hflight, hdecode, hreset ∘ hhost⟩, ⟨rfl, rfl, rfl, rfl⟩, 0, by decide, fun _ => rfl⟩
    · exact absurd hbusy (ne_true_of_eq_false idle)
  · exact absurd (hs ▸ List.mem_cons_self) hreset

theorem Unanswered.onlyWaits_of_step {i : Instr} {s t : State} (h : Unanswered i s) (hcalls : i ∉ callFree)
    (silent : s.replyAt 0 = .silent) (hstep : step s = .next t) : OnlyWaits i s t := by
  have hbegun : Unanswered i s.beginEngineTurn := ⟨h.flight, h.decodes, h.no_reset⟩
  have hspent : Unanswered i s.spendHostTurn := ⟨h.flight, h.decodes, h.no_reset⟩
  obtain ⟨-, idle⟩ | ⟨-, hturn | hturn⟩ := step_cases s
  · obtain ⟨outstanding, hflight⟩ := h.flight
    rw [hflight] at idle
    cases idle
  · exact hbegun.onlyWaits_of_engineStep hcalls silent (hturn ▸ hstep)
  · exact hspent.onlyWaits_of_hostTurn (hturn ▸ hstep)

/-- Settles O40, by induction on the number of steps: each of them only waits. -/
theorem unansweredCallKeepsBusy : Obligations.UnansweredCallKeepsBusy := by
  intro s t i n hfresh hdecode hcalls hsilent hreset hrun
  have hwaits : Unanswered i s := ⟨⟨none, hfresh⟩, hdecode, hreset⟩
  clear hfresh hdecode hreset
  induction n generalizing s with
  | zero =>
    cases hrun
    exact ⟨hwaits.busy, rfl, rfl, rfl, rfl⟩
  | succ n ih =>
    obtain ⟨u, hstep, hrest⟩ := run_succ_cases n s t hrun
    obtain ⟨hu, ⟨htrace, hwritten, hregs, hci⟩, d, hd, hreplies⟩ :=
      hwaits.onlyWaits_of_step hcalls (hsilent 0 n.succ_pos) hstep
    have hsilentRest : ∀ k < n, u.replyAt k = .silent := fun k hk => by
      rw [hreplies]; exact hsilent _ (by omega)
    rw [← htrace, ← hwritten, ← hregs, ← hci]
    exact ih u hsilentRest hrest hu

end Sys2Proof.Machine
end

section
/-! PROOFS. What the transactions of a turn do to the device bytes: a completed write makes its bytes known (R53,
R55), and an address that none of them covers keeps what is known of it. -/

namespace Sys2Proof.Machine

/-! ## One transaction -/

/-- What is known of the device once a transaction has ended: a failed one has made its bytes unknown, a completed
one has written them (R53, R55). -/
def Memory.settle (m : Memory) (x : Transaction) : Memory :=
  if x.outcome = .failed then m.forgetRange x.request.addr x.request.payload.length
  else m.writeBytes x.request.addr x.request.payload

/-- The transaction writes the byte at address `a`. -/
def Request.Covers (a : Nat) (r : Request) : Prop := r.addr ≤ a ∧ a < r.addr + r.payload.length

@[simp] theorem readByte_not_covers (a b : Nat) : ¬ (Request.readByte b).Covers a := by
  simp only [Request.Covers, Request.addr, Request.payload, List.length_nil]; omega
@[simp] theorem writeByte_covers (a b : Nat) (v : Byte) : (Request.writeByte b v).Covers a ↔ a = b := by
  simp only [Request.Covers, Request.addr, Request.payload, List.length_singleton]; omega
@[simp] theorem writeBulk_covers (a b : Nat) (bs : List Byte) :
    (Request.writeBulk b bs).Covers a ↔ b ≤ a ∧ a < b + bs.length := .rfl

theorem Memory.wf_settle {m : Memory} (hm : m.wf) (x : Transaction) : (m.settle x).wf := by
  unfold Memory.settle
  split
  · exact Memory.wf_forgetRange _ m hm _
  · exact Memory.wf_writeBytes _ m hm _

theorem Memory.read_settle_of_not_covers {m : Memory} (hm : m.wf) {x : Transaction} {a : Nat}
    (ha : ¬ x.request.Covers a) : (m.settle x).read a = m.read a := by
  unfold Memory.settle
  split
  · rw [Memory.read_forgetRange]; exact if_neg ha
  · rw [Memory.read_writeBytes _ m hm]; exact if_neg ha

theorem Memory.read_settle_done {m : Memory} (hm : m.wf) {r : Request} {k : Nat} {b : Byte}
    (hb : r.payload[k]? = some b) : (m.settle ⟨r, .done⟩).read (r.addr + k) = some b := by
  obtain ⟨hk, -⟩ := List.getElem?_eq_some_iff.mp hb
  have hin : r.addr ≤ r.addr + k ∧ r.addr + k < r.addr + r.payload.length := by omega
  have hsettle : m.settle ⟨r, .done⟩ = m.writeBytes r.addr r.payload := if_neg nofun
  rw [hsettle, Memory.read_writeBytes _ m hm, if_pos hin, Nat.add_sub_cancel_left, hb]

/-! ## The transactions of a turn -/

theorem Memory.wf_foldl_settle (xs : List Transaction) {m : Memory} (hm : m.wf) :
    (xs.foldl Memory.settle m).wf :=
  List.foldlRecOn xs Memory.settle hm fun _ hm x _ => Memory.wf_settle hm x

theorem Memory.read_foldl_settle_of_not_covers {xs : List Transaction} {m : Memory} (hm : m.wf) {a : Nat}
    (ha : ∀ x ∈ xs, ¬ x.request.Covers a) : (xs.foldl Memory.settle m).read a = m.read a := by
  induction xs generalizing m with
  | nil => rfl
  | cons x xs ih =>
    obtain ⟨hx, hxs⟩ := List.forall_mem_cons.mp ha
    rw [List.foldl_cons, ih (Memory.wf_settle hm x) hxs, Memory.read_settle_of_not_covers hm hx]

theorem exec_trace {i : Instr} {s t : State} (h : exec i s = .next t) : ∃ new, t.trace = s.trace ++ new := by
  rw [exec_eq] at h
  cases h
  exact run_trace _ s

/-- A command changes the device bytes by the transactions it adds to the record, in their order. -/
theorem exec_written {i : Instr} {s t : State} {new : List Transaction} (h : exec i s = .next t)
    (htrace : t.trace = s.trace ++ new) : t.written = new.foldl Memory.settle s.written := by
  rw [exec_eq] at h
  cases h
  obtain ⟨new', htrace', hwritten⟩ := run_written ((script i s).resume s.currentFlight) s
  rw [List.append_cancel_left (htrace.symm.trans htrace')]
  exact hwritten

/-- Settles O37: nothing follows the last transaction, so what it wrote is what is known. -/
theorem completedWriteIsKnown : Obligations.CompletedWriteIsKnown := by
  intro i s t before r k b hwf hexec htrace hb
  rw [List.append_assoc] at htrace
  rw [exec_written hexec htrace, List.foldl_append]
  exact Memory.read_settle_done (Memory.wf_foldl_settle before hwf) hb

end Sys2Proof.Machine
end

section
/-! PROOFS. The device addresses of each command (R49): its script issues the reads and writes of its row, so these
are the transactions it adds to the record, and no byte outside the ones they store changes. -/

namespace Sys2Proof.Machine

/-! ## The access table (R49) -/

/-- A read or a write of the one byte at address `a`. -/
def Request.AtByte (a : Nat) (r : Request) : Prop := r = .readByte a ∨ ∃ v, r = .writeByte a v

@[simp] theorem readByte_atByte (a : Nat) : (Request.readByte a).AtByte a := .inl rfl
@[simp] theorem writeByte_atByte (a : Nat) (v : Byte) : (Request.writeByte a v).AtByte a := .inr ⟨v, rfl⟩

/-- A bulk write of `n` bytes from address `a`. -/
def Request.BulkAt (a n : Nat) (r : Request) : Prop := ∃ bs, bs.length = n ∧ r = .writeBulk a bs

/-- The transactions R49 gives a command, its addresses as the meaning computes them. -/
def Accesses (i : Instr) (r : Request) : Prop :=
  match i with
  | .nop | .pllCalc | .pllCalcVcxo | .msCalc | .ms67Calc | .rdivSel | .rdiv67Sel => False
  | .packPll p => r.BulkAt (pllBase p) 8
  | .packMs ch => r = .readByte (msBase ch + 2) ∨ r.BulkAt (msBase ch) 8
  | .packMs67 ch => ∃ v, r = .writeByte (90 + (ch.val - 6)) v
  | .msctlWr ch => ∃ a ∈ if ch.val ≤ 5 then [ctlByteAddr ch, 16 + ch.val] else [92], r.AtByte a
  | .fieldWr f ch _ => r.AtByte (fieldTable f ch).addr
  | .pllRst _ _ => ∃ v, r = .writeByte 177 v
  | .packVcxo => r.BulkAt 162 3
  | .statusRd => r = .readByte 0 ∨ r = .readByte 1

theorem script_accesses (i : Instr) (s : State) : (script i s).AllRequests (Accesses i) := by
  cases i with
  | nop | ms67Calc | rdivSel | rdiv67Sel => trivial
  | pllCalc => rw [script, scriptPllCalc]; exact pllScript_allRequests _ _ s
  | pllCalcVcxo => rw [script, scriptPllCalcVcxo]; exact pllScript_allRequests _ _ s
  | msCalc => exact scriptMsCalc_allRequests _ s
  | packPll p => exact ⟨⟨_, dividerBytes_length .., rfl⟩, trivial⟩
  | packMs ch =>
    exact allRequests_whenLegal fun _ =>
      ⟨.inl rfl, fun _ => ⟨.inr ⟨_, dividerBytes_length .., rfl⟩, trivial⟩⟩
  | packMs67 ch => exact allRequests_whenLegal fun _ => ⟨⟨_, rfl⟩, trivial⟩
  | msctlWr ch =>
    simp only [script, scriptMsctlWr]
    split_ifs with h <;> simp [Accesses, h]
  | fieldWr f ch imm =>
    exact allRequests_whenLegal fun _ => ⟨readByte_atByte _, fun _ => ⟨writeByte_atByte _ _, trivial⟩⟩
  | pllRst resetA resetB => exact allRequests_whenLegal fun _ => ⟨⟨_, rfl⟩, trivial⟩
  | packVcxo => exact ⟨⟨_, rfl, rfl⟩, trivial⟩
  | statusRd => exact ⟨.inl rfl, fun _ => ⟨.inr rfl, fun _ => trivial⟩⟩

/-! ## The transactions a command adds to the record -/

/-- Since `s₀` only transactions that satisfy `Q` were added to the record. -/
def Adds (Q : Request → Prop) (s₀ s : State) : Prop :=
  ∃ new, s.trace = s₀.trace ++ new ∧ ∀ x ∈ new, Q x.request

theorem Adds.snoc {Q : Request → Prop} {s₀ s t : State} (h : Adds Q s₀ s) {x : Transaction}
    (hx : Q x.request) (ht : t.trace = s.trace ++ [x]) : Adds Q s₀ t := by
  obtain ⟨new, htrace, hnew⟩ := h
  refine ⟨new ++ [x], by rw [ht, htrace, List.append_assoc], fun y hy => ?_⟩
  obtain hy | hy := List.mem_append.mp hy
  · exact hnew y hy
  · exact List.mem_singleton.mp hy ▸ hx

theorem adds_keptByTurn (Q : Request → Prop) (s₀ : State) : KeptByTurn Q (Adds Q s₀) where
  finish ws s h := by simpa [Adds] using h
  raise c s h := h
  read a b s hQ h := h.snoc hQ (readCompleted_trace ..)
  write r s hQ h := h.snoc hQ (writeCompleted_trace ..)
  fail r s hQ h := h.snoc hQ (transactionFailed_trace ..)
  await r s _ h := h

/-- What holds of every transaction of its script holds of those a command adds to the record. -/
theorem exec_requests {Q : Request → Prop} {i : Instr} {s t : State} {new : List Transaction}
    (hQ : (script i s).AllRequests Q) (h : exec i s = .next t) (htrace : t.trace = s.trace ++ new) :
    ∀ x ∈ new, Q x.request := by
  rw [exec_eq] at h
  cases h
  obtain ⟨new', htrace', hnew⟩ := (adds_keptByTurn Q s).run (hQ.resume s.currentFlight)
    ⟨[], (List.append_nil _).symm, nofun⟩
  exact List.append_cancel_left (htrace.symm.trans htrace') ▸ hnew

theorem packMs67_addr : ∀ ch : Channel, (Instr.packMs67 ch).WellFormed →
    90 + (ch.val - 6) = if ch = 6 then 90 else 91 := by decide

theorem disState_addr : ∀ ch : Channel,
    (fieldTable .disState ch).addr = if ch.val ≤ 3 then 24 else 25 := by decide

theorem rdiv_addr : ∀ ch : Channel,
    (fieldTable .rdiv ch).addr = if ch.val ≤ 5 then 42 + 8 * ch.val + 2 else 92 := by decide

theorem Request.Below.mono {m n : Nat} (hmn : m ≤ n) {r : Request} (h : r.Below m) : r.Below n :=
  ⟨h.1.trans_le hmn, h.2.trans hmn⟩

/-- Settles O35: every transaction of a script is in the access table, and below address 256. -/
theorem commandsReachOnlyTheirAddresses : Obligations.CommandsReachOnlyTheirAddresses := by
  constructor
  · intro i s t new _ hsound hexec htrace x hx
    have hsize : 256 ≤ 2 ^ s.cfg.devAddrBits := Nat.pow_le_pow_right two_pos hsound.2
    exact (exec_requests (script_below i s) hexec htrace x hx).mono hsize
  · intro i s t new hwf hexec htrace x hx
    have hacc := exec_requests (script_accesses i s) hexec htrace x hx
    cases i with
    | packPll p => cases p <;> exact hacc
    | packMs67 ch =>
      obtain ⟨v, hv⟩ := hacc
      exact ⟨v, packMs67_addr ch hwf ▸ hv⟩
    | fieldWr f ch imm =>
      refine ⟨_, ?_, hacc⟩
      cases f with
      | disState => exact List.mem_singleton.mpr (disState_addr ch)
      | rdiv => exact List.mem_singleton.mpr (rdiv_addr ch)
      | _ => exact List.mem_singleton.mpr rfl
    | _ => exact hacc

/-! ## The memory frame (R49, R53, R55) -/

theorem Request.AtByte.not_covers {a b : Nat} {r : Request} (h : r.AtByte b) (hab : a ≠ b) :
    ¬ r.Covers a := by
  obtain rfl | ⟨v, rfl⟩ := h
  · simp
  · simpa using hab

theorem Request.BulkAt.not_covers {a b n : Nat} {r : Request} (h : r.BulkAt b n) (hab : a < b ∨ b + n ≤ a) :
    ¬ r.Covers a := by
  obtain ⟨bs, rfl, rfl⟩ := h
  rw [writeBulk_covers]
  omega

/-- Settles O36: no transaction of the command's row covers the address. -/
theorem onlyStoredBytesChange : Obligations.OnlyStoredBytesChange := by
  intro i s t a _ hwf hexec houtside
  obtain ⟨new, htrace⟩ := exec_trace hexec
  rw [exec_written hexec htrace]
  refine Memory.read_foldl_settle_of_not_covers hwf fun x hx => ?_
  have hacc := exec_requests (script_accesses i s) hexec htrace x hx
  cases i with
  | nop | pllCalc | pllCalcVcxo | msCalc | ms67Calc | rdivSel | rdiv67Sel => exact hacc.elim
  | packPll p => exact hacc.not_covers houtside
  | packMs ch =>
    obtain hread | hbulk := hacc
    · exact hread ▸ readByte_not_covers a _
    · exact hbulk.not_covers houtside
  | packMs67 ch => exact Request.AtByte.not_covers (.inr hacc) houtside
  | msctlWr ch =>
    obtain ⟨b, hb, hat⟩ := hacc
    refine hat.not_covers ?_
    by_cases h : ch.val ≤ 5
    · simp only [h, if_true, List.mem_cons, List.not_mem_nil, or_false] at hb houtside
      obtain rfl | rfl := hb
      · exact houtside.1
      · exact houtside.2
    · simp only [h, if_false, List.mem_singleton] at hb houtside
      exact hb ▸ houtside
  | fieldWr f ch imm => exact hacc.not_covers houtside
  | pllRst resetA resetB => exact Request.AtByte.not_covers (.inr hacc) houtside
  | packVcxo => exact hacc.not_covers houtside
  | statusRd =>
    obtain hread | hread := hacc
    · exact hread ▸ readByte_not_covers a 0
    · exact hread ▸ readByte_not_covers a 1

end Sys2Proof.Machine
end

section
/-! PROOFS. The control fields of R156 against the device register map of R48. -/

namespace Sys2Proof.Machine

theorem deviceRegion_channelControl : ∀ ch : Channel,
    deviceRegion (16 + ch.val) = some (.channelControl ch.val) := by decide

theorem deviceRegion_disableState : ∀ ch : Channel,
    deviceRegion (24 + ch.val / 4) = some (fieldRegion .disState ch) := by decide

theorem deviceRegion_phaseOffset : ∀ ch : Channel, ch.val ≤ 5 →
    deviceRegion (165 + ch.val) = some (.phaseOffset ch.val) := by decide

theorem deviceRegion_ctlByteAddr : ∀ ch : Channel, ch.val ≤ 5 →
    deviceRegion (ctlByteAddr ch) = some (.multisynth ch.val) := by decide

/-- Settles O58, register by register. -/
theorem controlFieldsLieInTheirRegisters : Obligations.ControlFieldsLieInTheirRegisters := by
  intro f ch hlegal
  refine ⟨?_, (fieldTable_fits f ch).1⟩
  cases f with
  | oeb | pllaSrc | pllbSrc | clkinDiv | fanoutClkin | fanoutXtal | fanoutMs | xtalCl => rfl
  | pdn | int | pllsel | inv | src | drv => exact deviceRegion_channelControl ch
  | disState => exact deviceRegion_disableState ch
  | phase => exact deviceRegion_phaseOffset ch (of_decide_eq_true hlegal)
  | divby4 => exact deviceRegion_ctlByteAddr ch (of_decide_eq_true hlegal)
  | rdiv =>
    by_cases h : ch.val ≤ 5
    · simpa [fieldTable, fieldRegion, h] using deviceRegion_ctlByteAddr ch h
    · simp [fieldTable, fieldRegion, h, deviceRegion]

end Sys2Proof.Machine
end

section
/-! PROOFS. Each part of the decoder answers exactly the commands of its rows (R72 to R77), so decoding and encoding
are inverse, a decoded word matches the row of its command alone, and the legal words are those of the opcode map. -/

namespace Sys2Proof

/-! ## What each part of the decoder answers -/

theorem ite_error_eq_ok {c : Prop} [Decidable c] {r : Except Illegal Instr} {e : Illegal} {i : Instr} :
    (if c then r else .error e) = .ok i ↔ c ∧ r = .ok i := by
  split
  case isTrue h => exact (and_iff_right h).symm
  case isFalse h => exact iff_of_false nofun fun hok => h hok.1

theorem decodePlain_eq_ok {f : Fields} {i j : Instr} :
    f.decodePlain j = .ok i ↔ (f.ch = 0 ∧ f.ps = 0 ∧ f.fld = 0 ∧ f.imm = 0) ∧ j = i := by
  rw [Fields.decodePlain, ite_error_eq_ok, Except.ok.injEq]

theorem decodePackPll_eq_ok {f : Fields} {i : Instr} :
    f.decodePackPll = .ok i ↔ (f.ch = 0 ∧ f.fld = 0 ∧ f.imm = 0) ∧
      (f.ps = 0 ∧ .packPll .a = i ∨ f.ps = 1 ∧ .packPll .b = i) := by
  rw [Fields.decodePackPll, ite_error_eq_ok]
  refine and_congr_right fun _ => ?_
  by_cases hps : f.ps = 0
  · simp [hps]
  · rw [if_neg hps, ite_error_eq_ok, Except.ok.injEq, or_iff_right fun h => hps h.1]

theorem decodeChannel_eq_ok {f : Fields} {i : Instr} {command : Channel → Instr} :
    f.decodeChannel command = .ok i ↔
      (f.ps = 0 ∧ f.fld = 0 ∧ f.imm = 0) ∧ (command f.ch.toFin).WellFormed ∧ command f.ch.toFin = i := by
  rw [Fields.decodeChannel, ite_error_eq_ok, ite_error_eq_ok, Except.ok.injEq]

theorem Field.ofId_eq_some {n : Nat} {f : Field} : Field.ofId n = some f ↔ f.id.toNat = n := by
  constructor
  · intro h
    unfold Field.ofId at h
    split at h <;> cases h <;> rfl
  · rintro rfl
    exact Field.ofId_id f

theorem fieldWr_wellFormed {f : Field} {ch : Channel} {imm : Byte} :
    (Instr.fieldWr f ch imm).WellFormed ↔
      (Machine.fieldTable f ch).legal = true ∧ imm.toNat < 2 ^ (Machine.fieldTable f ch).width := by
  rw [Instr.WellFormed, Instr.wf, Bool.and_eq_true, decide_eq_true_eq]

theorem decodeFieldWr_eq_ok {f : Fields} {i : Instr} :
    f.decodeFieldWr = .ok i ↔
      f.ps = 0 ∧ ∃ field : Field, field.id = f.fld ∧ (Instr.fieldWr field f.ch.toFin f.imm).WellFormed ∧
        .fieldWr field f.ch.toFin f.imm = i := by
  rw [Fields.decodeFieldWr, ite_error_eq_ok]
  refine and_congr_right fun _ => ?_
  simp only [← BitVec.toNat_inj (y := f.fld), ← Field.ofId_eq_some, fieldWr_wellFormed]
  cases Field.ofId f.fld.toNat with
  | none => simp
  | some field => simp [ite_error_eq_ok, and_assoc]

theorem decodePllRst_eq_ok {f : Fields} {i : Instr} :
    f.decodePllRst = .ok i ↔ (f.ch = 0 ∧ f.fld = 0 ∧ f.imm = 0) ∧ f.ps ≠ 0 ∧
      .pllRst (f.ps.getLsbD 0) (f.ps.getLsbD 1) = i := by
  rw [Fields.decodePllRst, ite_error_eq_ok, ← ite_not, ite_error_eq_ok, Except.ok.injEq]

/-! ## Decoding and encoding are inverse -/

theorem decode_fields {i : Instr} (h : i.WellFormed) : i.fields.decode = .ok i := by
  cases i with
  | packPll p => cases p <;> rfl
  | packMs ch =>
    change (Instr.packMs ch).fields.decodeChannel .packMs = _
    exact decodeChannel_eq_ok.mpr ⟨⟨rfl, rfl, rfl⟩, h, rfl⟩
  | packMs67 ch =>
    change (Instr.packMs67 ch).fields.decodeChannel .packMs67 = _
    exact decodeChannel_eq_ok.mpr ⟨⟨rfl, rfl, rfl⟩, h, rfl⟩
  | fieldWr f ch imm =>
    change (Instr.fieldWr f ch imm).fields.decodeFieldWr = _
    exact decodeFieldWr_eq_ok.mpr ⟨rfl, f, rfl, h, rfl⟩
  | pllRst resetA resetB => revert resetA resetB; decide
  | _ => rfl

theorem pllMask_of_bits :
    ∀ ps : BitVec 2, BitVec.ofBool (ps.getLsbD 1) ++ BitVec.ofBool (ps.getLsbD 0) = ps := by decide

theorem fields_of_decode {f : Fields} {i : Instr} (h : f.decode = .ok i) : i.fields = f := by
  obtain ⟨op, ch, ps, fld, imm, rsv⟩ := f
  rw [Fields.decode, ite_error_eq_ok] at h
  obtain ⟨rfl, h⟩ := h
  dsimp only at h
  split at h
  case h_8 hop =>
    obtain rfl := BitVec.eq_of_toNat_eq (y := 0x08) hop
    obtain ⟨⟨rfl, rfl, rfl⟩, ⟨rfl, rfl⟩ | ⟨rfl, rfl⟩⟩ := decodePackPll_eq_ok.mp h
    · rfl
    · rfl
  case h_9 hop | h_10 hop | h_11 hop =>
    obtain ⟨⟨rfl, rfl, rfl⟩, -, rfl⟩ := decodeChannel_eq_ok.mp h
    exact congrArg (Fields.mk · ch 0 0 0 0) (BitVec.eq_of_toNat_eq hop.symm)
  case h_12 hop =>
    obtain ⟨rfl, field, rfl, -, rfl⟩ := decodeFieldWr_eq_ok.mp h
    exact congrArg (Fields.mk · ch 0 field.id imm 0) (BitVec.eq_of_toNat_eq hop.symm)
  case h_13 hop =>
    obtain rfl := BitVec.eq_of_toNat_eq (y := 0x0D) hop
    obtain ⟨⟨rfl, rfl, rfl⟩, -, rfl⟩ := decodePllRst_eq_ok.mp h
    rw [Instr.fields, pllMask_of_bits, Fields.plain]
  case h_16 => cases h
  all_goals
    rename_i hop
    obtain ⟨⟨rfl, rfl, rfl, rfl⟩, rfl⟩ := decodePlain_eq_ok.mp h
    exact congrArg Fields.plain (BitVec.eq_of_toNat_eq hop.symm)

/-- The decoder answers a command exactly for the word of that command, if it is well formed. -/
theorem decode_eq_ok {w : CmdWord} {i : Instr} : decode w = .ok i ↔ i.WellFormed ∧ encode i = w := by
  constructor
  · intro h
    have hfields : i.fields = Fields.ofWord w := fields_of_decode h
    exact ⟨wf_of_decode h, by rw [encode, hfields, Fields.toWord_ofWord]⟩
  · rintro ⟨hwf, rfl⟩
    rw [decode, encode, Fields.ofWord_toWord, decode_fields hwf]

/-- Settles O1: each part of the decoder answers the fields of its own commands. -/
theorem decodeOfEncodeIsIdentity : Obligations.DecodeOfEncodeIsIdentity :=
  fun _ hwf => decode_eq_ok.mpr ⟨hwf, rfl⟩

/-- Settles O2: what a part of the decoder answers has the fields it was given. -/
theorem encodeOfDecodeIsIdentity : Obligations.EncodeOfDecodeIsIdentity :=
  fun _ _ => decode_eq_ok.mp

/-! ## The rows of the opcode map -/

theorem encode_matches_row {i : Instr} (h : i.WellFormed) : i.row.Matches (encode i) := by
  open Laws.EncodedRow in
  cases i with
  | nop => exact nop h
  | pllCalc => exact pllCalc h
  | pllCalcVcxo => exact pllCalcVcxo h
  | msCalc => exact msCalc h
  | ms67Calc => exact ms67Calc h
  | rdivSel => exact rdivSel h
  | rdiv67Sel => exact rdiv67Sel h
  | packPll p => exact packPll p h
  | packMs ch => exact packMs ch h
  | packMs67 ch => exact packMs67 ch h
  | msctlWr ch => exact msctlWr ch h
  | fieldWr f ch imm => exact fieldWr f ch imm h
  | pllRst resetA resetB => exact pllRst resetA resetB h
  | packVcxo => exact packVcxo h
  | statusRd => exact statusRd h

/-- The rows of the opcode map (R77), one command for each. -/
def opcodeMap : List Row :=
  [.nop, .pllCalc, .pllCalcVcxo, .msCalc, .ms67Calc, .rdivSel, .rdiv67Sel, .packPll .a, .packMs 0,
    .packMs67 6, .msctlWr 0, .fieldWr .oeb 0 0, .pllRst true true, .packVcxo, .statusRd].map Instr.row

theorem row_mem_opcodeMap (i : Instr) : i.row ∈ opcodeMap := by
  cases i <;> simp [opcodeMap, Instr.row]

/-- The OP bits of a row's match column (R70). -/
def Row.opcode (r : Row) : CmdWord := r.pattern &&& 0x3F

theorem opcodeMap_mask : ∀ r ∈ opcodeMap, r.mask &&& 0x3F = 0x3F := by decide

theorem opcodeMap_opcodes_nodup : (opcodeMap.map Row.opcode).Nodup := by decide

theorem opcode_of_matches {i : Instr} {w : CmdWord} (h : i.row.Matches w) : i.row.opcode = w &&& 0x3F := by
  rw [Row.opcode, ← h, BitVec.and_assoc, opcodeMap_mask _ (row_mem_opcodeMap i)]

/-- Settles O3: every mask keeps the OP bits, in which the rows differ. -/
theorem decodedWordMatchesExactlyOneRow : Obligations.DecodedWordMatchesExactlyOneRow := by
  constructor
  · intro w i h
    obtain ⟨hwf, rfl⟩ := decode_eq_ok.mp h
    exact encode_matches_row hwf
  · intro w i j hi hj
    exact List.inj_on_of_nodup_map opcodeMap_opcodes_nodup (row_mem_opcodeMap i) (row_mem_opcodeMap j)
      ((opcode_of_matches hi).trans (opcode_of_matches hj).symm)

/-! ## The control-field table in numbers (R156) -/

theorem Field.exists_id {n : Nat} : (∃ f : Field, f.id.toNat = n) ↔ n ≤ 17 := by
  constructor
  · rintro ⟨f, rfl⟩
    cases f <;> decide
  · intro h
    interval_cases n
    all_goals exact ⟨_, Field.ofId_eq_some.mp rfl⟩

/-- The FLD, CH and width columns of R156 admit these numbers. -/
def FieldAdmits (fld ch imm : Nat) : Prop :=
  fld ≤ 17 ∧ imm < 2 ^ [1, 1, 1, 1, 1, 2, 2, 2, 1, 1, 2, 7, 1, 1, 1, 2, 3, 2].getD fld 0 ∧
    (fld ∈ [8, 9, 10, 12, 13, 14, 15] → ch = 0) ∧ (fld ∈ [11, 17] → ch ≤ 5)

theorem fieldWr_wellFormed_iff_admits {f : Field} {ch : Channel} {imm : Byte} :
    (Instr.fieldWr f ch imm).WellFormed ↔ FieldAdmits f.id.toNat ch.val imm.toNat := by
  rw [fieldWr_wellFormed]
  cases f with
  | rdiv => by_cases h : ch.val ≤ 5 <;> simp [FieldAdmits, Field.id, Machine.fieldTable, h]
  | _ => simp [FieldAdmits, Field.id, Machine.fieldTable, and_comm]

/-! ## The legal words -/

theorem decodePlain_legal {f : Fields} {j : Instr} : (∃ i, f.decodePlain j = .ok i) ↔
    f.ch.toNat = 0 ∧ f.ps.toNat = 0 ∧ f.fld.toNat = 0 ∧ f.imm.toNat = 0 := by
  simp [decodePlain_eq_ok, BitVec.toNat_eq]

theorem decodePackPll_legal {f : Fields} : (∃ i, f.decodePackPll = .ok i) ↔
    f.ps.toNat ≤ 1 ∧ f.ch.toNat = 0 ∧ f.fld.toNat = 0 ∧ f.imm.toNat = 0 := by
  simp only [decodePackPll_eq_ok, exists_and_left, exists_or, exists_eq', and_true]
  bv_omega

theorem decodeChannel_legal {f : Fields} {command : Channel → Instr} :
    (∃ i, f.decodeChannel command = .ok i) ↔
      (command f.ch.toFin).WellFormed ∧ f.ps.toNat = 0 ∧ f.fld.toNat = 0 ∧ f.imm.toNat = 0 := by
  simp [decodeChannel_eq_ok, BitVec.toNat_eq, and_comm]

theorem decodeFieldWr_legal {f : Fields} : (∃ i, f.decodeFieldWr = .ok i) ↔
    f.ps.toNat = 0 ∧ FieldAdmits f.fld.toNat f.ch.toNat f.imm.toNat := by
  simp only [decodeFieldWr_eq_ok, fieldWr_wellFormed_iff_admits]
  constructor
  · rintro ⟨_, hps, field, hfld, hadmits, -⟩
    exact ⟨congrArg BitVec.toNat hps, hfld ▸ hadmits⟩
  · rintro ⟨hps, hadmits⟩
    obtain ⟨field, hid⟩ := Field.exists_id.mpr hadmits.1
    exact ⟨_, BitVec.eq_of_toNat_eq hps, field, BitVec.eq_of_toNat_eq hid, hid ▸ hadmits, rfl⟩

theorem decodePllRst_legal {f : Fields} : (∃ i, f.decodePllRst = .ok i) ↔
    f.ps.toNat ≠ 0 ∧ f.ch.toNat = 0 ∧ f.fld.toNat = 0 ∧ f.imm.toNat = 0 := by
  simp [decodePllRst_eq_ok, BitVec.toNat_eq, and_comm]

/-- Settles O4, opcode by opcode. -/
theorem legalWordsAreThoseOfTheOpcodeMap : Obligations.LegalWordsAreThoseOfTheOpcodeMap := by
  intro w
  obtain ⟨f, rfl⟩ : ∃ f : Fields, f.toWord = w := ⟨_, Fields.toWord_ofWord w⟩
  obtain ⟨hop, hch, hps, hfld, himm, hrsv⟩ := Fields.mk.inj f.ofWord_toWord
  simp only [decode, Fields.ofWord_toWord, hop, hch, hps, hfld, himm, hrsv, Fields.decode, ite_error_eq_ok,
    exists_and_left]
  clear hop hch hps hfld himm hrsv
  refine and_congr (BitVec.toNat_eq (y := 0)) ?_
  split
  case h_8 hop => simp [hop, decodePackPll_legal]
  case h_9 hop | h_10 hop | h_11 hop => simp [hop, decodeChannel_legal, Instr.WellFormed, Instr.wf]
  case h_12 hop => simp [hop, decodeFieldWr_legal, FieldAdmits]
  case h_13 hop => simp [hop, decodePllRst_legal]
  case h_16 => simp_all
  all_goals
    rename_i hop
    simp [hop, decodePlain_legal]

end Sys2Proof
end

section
/-! PROOFS. HWAIT (R82), and the meaning of a term of `Instr` that is no legal command (R79, log entry 10). -/

namespace Sys2Proof.Machine

@[simp] theorem spendHostTurn_busy (s : State) : s.spendHostTurn.busy = s.busy := rfl

theorem step_wait {s : State} {rest : List HostAction} (hturn : s.busy = true → s.hostTurnsLeft ≠ 0)
    (hhost : s.host = .waitIdle :: rest) :
    step s = hostRead 0x008 (s.atHostTurn (if s.busy then s.host else rest)) := by
  rw [step_of_host s hturn, hostTurn_wait _ rest (by split <;> exact hhost), State.atHostTurn]
  cases hb : s.busy
  · simp [hb]
  · simp only [if_true, spendHostTurn_busy, hb]
    rfl

/-- Settles O15: the turn is a read of STATUS, and HWAIT is taken from the list only when BUSY = 0. -/
theorem waitReadsStatusUntilIdle : Obligations.WaitReadsStatusUntilIdle := by
  intro s rest hhost hturn
  refine ⟨_, (step_wait hturn hhost).trans (hostRead_of_hostReg (r := .status) rfl _), ?_,
    rfl, rfl, rfl, rfl, rfl⟩
  exact congrArg (fun value => s.hostReads ++ [⟨0x008, value⟩]) (statusWord_eq_ofNat (s.atHostTurn _))

theorem script_of_illFormed {i : Instr} (hill : ¬ i.WellFormed) (s : State) :
    script i s = .raise .illegalCmd := by
  cases i with
  | packMs | packMs67 | fieldWr | pllRst => exact if_neg hill
  | nop | pllCalc | pllCalcVcxo | msCalc | ms67Calc | rdivSel | rdiv67Sel | packPll | msctlWr | packVcxo
  | statusRd => exact absurd rfl hill

/-- Settles O30: such a command's whole script is the error. -/
theorem illFormedCommandsRaiseIllegalCmd : Obligations.IllFormedCommandsRaiseIllegalCmd := by
  intro s i hill hfresh
  rw [exec_starting i s hfresh, script_of_illFormed hill, run_raise]
  rfl

end Sys2Proof.Machine
end

section
/-! PROOFS. The PLL calculations: what PLL_CALC and PLL_CALC_VCXO write, and BAD_REFERENCE (R91 to R93). -/

namespace Sys2Proof.Machine

/-! ## A turn on a script that issues no transaction -/

theorem engineTurn_finish (ws : List (Reg × Int)) (s : State) :
    engineTurn (.finish ws) s = .next (completeCommand (s.writeRegs ws)) := by
  rw [engineTurn, resume_finish, run_finish]

theorem engineTurn_raise (c : Cause) (s : State) : engineTurn (.raise c) s = .next (enterError c s) := by
  rw [engineTurn, resume_raise, run_raise]

/-! ## The corrected reference, which decides between the error and the result (R91, R92) -/

theorem corr_eq_setWidth (s : State) : s.corr = ((s.x .corr).setWidth 32).toInt := by
  rw [State.corr, BitVec.setWidth_eq_extractLsb' (by decide)]

/-- The corrected reference a PLL calculation divides by. -/
def State.correctedRef (s : State) : Int := correctRef s.cfg.corrMode (s.ux .ref) s.corr

theorem pllTurn_of_nonpos {s : State} {refc : Int} (href : s.correctedRef = refc) (h : refc ≤ 0)
    (rf : PllResult → Int) : engineTurn (pllScript rf s) s = .next (enterError .badReference s) := by
  subst href
  rw [show pllScript rf s = .raise .badReference from if_pos h, engineTurn_raise]

theorem pllTurn_of_pos {s : State} {refc : Int} (href : s.correctedRef = refc) (h : 0 < refc) {r : PllResult}
    (hr : pllDivider (s.ux .pllf) refc = r) (rf : PllResult → Int) :
    engineTurn (pllScript rf s) s = .next (completeCommand (s.writeRegs (pllWrites r (rf r)))) := by
  subst href hr
  rw [← engineTurn_finish]
  exact congrArg (engineTurn · s) (if_neg h.not_ge)

/-! ## What a calculation writes (R92) -/

theorem pllFlags_toNat (ovf : Bool) :
    ((flagsWord true false false ovf false).toNat : Int) = if ovf then 0x09 else 0x01 := by
  cases ovf <;> rfl

theorem writeRegs_pllWrites (s : State) (r : PllResult) (rf : Int) :
    s.writeRegs (pllWrites r rf) =
      { s with
        regs :=
          { s.regs with
            a := regOf s.cfg.width r.a
            b := regOf s.cfg.width r.b
            c := regOf s.cfg.width r.c
            p1 := regOf s.cfg.width r.fields.p1
            p2 := regOf s.cfg.width r.fields.p2
            p3 := regOf s.cfg.width r.fields.p3
            rf := regOf s.cfg.width rf
            refc := regOf s.cfg.width r.refc
            flags := regOf s.cfg.width (if r.fields.ovf then 0x09 else 0x01) } } := by
  simp only [pllWrites, State.writeRegs, State.setX, Regs.set, pllFlags_toNat]

/-- Settles O20: both commands run one script, which raises BAD_REFERENCE or writes the chosen divider with the RF
of its command. -/
theorem pllCalcResults : Obligations.PllCalcResults := by
  intro s ref corr q refc t0 a t b c p1 p2 ovf reg result
  have hrefc : s.correctedRef = refc := by
    rw [State.correctedRef, corr_eq_setWidth]
    cases hmode : s.cfg.corrMode with
    | exactRational => simp [refc, hmode, correctRef, roundHalfAway_ppb, q, ref, corr, State.ux]
    | fixed31 => simp [refc, hmode, correctRef, ref, corr, State.ux]
  have hdivider : pllDivider (s.ux .pllf) refc = ⟨a, b, c, ⟨p1, p2, c⟩, refc * a + refc * b / c, refc⟩ := by
    simp [pllDivider, encodeDivider, clamp_eq_max_min, State.ux, t0, a, t, b, c, p1, p2]
  have hovf : (DividerFields.mk p1 p2 c).ovf = ovf := fieldsOvf_eq p1 p2 c
  refine ⟨fun hbad i hi => ?_, fun hgood => ?_⟩
  · rcases hi with rfl | rfl <;> exact pllTurn_of_nonpos hrefc hbad _
  · have hturn (rf : PllResult → Int) :
        engineTurn (pllScript rf s) s =
          .next (result (rf ⟨a, b, c, ⟨p1, p2, c⟩, refc * a + refc * b / c, refc⟩)) := by
      rw [pllTurn_of_pos hrefc hgood hdivider, writeRegs_pllWrites, hovf]
      rfl
    exact ⟨hturn _, hturn _⟩

end Sys2Proof.Machine
end

section
/-! PROOFS. MS_CALC: its two modes and DIV_ZERO, the registers it writes, and the accuracy of the locked mode (R110
to R115). -/

namespace Sys2Proof.Machine

/-! ## What MS_CALC chooses, mode by mode, in natural numbers -/

/-- The entry-clamped frequency (R110). -/
def msFreq (freq : Nat) : Nat := max 50000000 (min 22500000000 freq)

theorem clamp_msFreq (freq : Nat) : clamp freq Config.msMinFreq Config.msMaxFreq = (msFreq freq : Int) := by
  simp [clamp_eq_max_min, msFreq]

theorem divBy4_iff (f : Nat) : Config.divBy4Freq ≤ (f : Int) ↔ 15000000000 ≤ f := by simp

/-- The divider of the free mode: 4 under divide-by-4, and no 5 or 7 (R111, R113). -/
def msFreeQuotient (f : Nat) : Nat :=
  if 15000000000 ≤ f then 4
  else if 90000000000 / f = 5 then 4 else if 90000000000 / f = 7 then 6 else 90000000000 / f

theorem natCast_msFreeQuotient (f : Nat) :
    (msFreeQuotient f : Int) = if 15000000000 ≤ f then 4 else msFreeDivider f := by
  have hquotient : Config.vcoMax / (f : Int) = (90000000000 / f : Nat) := rfl
  simp only [msFreeQuotient, msFreeDivider, hquotient]
  generalize 90000000000 / f = a
  split_ifs <;> omega

/-- The frequency locked mode divides by: `f`, or the one re-derived from a quotient outside 6 to 1800 (R112). -/
def msLockedFreq (pll f : Nat) : Nat := if pll / f < 6 then pll / 6 else if 1800 < pll / f then pll / 1800 else f

theorem natCast_msLockedFreq (pll f : Nat) :
    (msLockedFreq pll f : Int) =
      if (pll : Int) / f < Config.msAMin then (pll : Int) / Config.msAMin
      else if (pll : Int) / f > Config.msAMax then (pll : Int) / Config.msAMax
      else f := by
  simp only [msLockedFreq, Config.msAMin, Config.msAMax]
  split_ifs <;> omega

theorem msLockedFreq_of_in_range {pll f : Nat} (hlow : 6 ≤ pll / f) (hhigh : pll / f ≤ 1800) :
    msLockedFreq pll f = f :=
  (if_neg hlow.not_gt).trans (if_neg hhigh.not_gt)

theorem msCalc_free (freq : Nat) :
    msCalc freq 0 =
      let a := msFreeQuotient (msFreq freq)
      some ⟨a, 0, 1, (a * msFreq freq : Nat), decide (15000000000 ≤ msFreq freq), true⟩ := by
  rw [msCalc, if_pos rfl, clamp_msFreq]
  simp only [decide_eq_true_eq, divBy4_iff, ← natCast_msFreeQuotient]
  rfl

theorem msCalc_locked {freq pll f : Nat} (h : pll ≠ 0) (hf : msLockedFreq pll (msFreq freq) = f) (hne : f ≠ 0) :
    msCalc freq pll =
      let b := pll % f * 1000000 / f
      some ⟨(pll / msFreq freq : Nat), b, (if b = 0 then 1 else 1000000 : Nat), f,
        decide (15000000000 ≤ msFreq freq), false⟩ := by
  have hb : (pll : Int) % f * Config.rfracDenom / f = (pll % f * 1000000 / f : Nat) := rfl
  subst hf
  simp only [msCalc, clamp_msFreq, ← natCast_msLockedFreq, Int.natCast_eq_zero, h, hne, if_false, divBy4_iff,
    hb, ite_not, ne_eq, Nat.cast_ite]
  rfl

theorem msCalc_divZero {freq pll : Nat} (h : pll ≠ 0) (hf : msLockedFreq pll (msFreq freq) = 0) :
    msCalc freq pll = none := by
  simp only [msCalc, clamp_msFreq, ← natCast_msLockedFreq, Int.natCast_eq_zero, h, hf, if_false, if_true]

/-! ## What MS_CALC writes (R110, R114) -/

theorem exec_msCalc_of_some {s : State} {r : MsResult}
    (h : msCalc (s.x .freq).toNat (s.x .pllf).toNat = some r) :
    exec .msCalc s = .next (completeCommand (s.writeRegs (msWrites r))) := by
  rw [exec, execMsCalc, scriptMsCalc, State.ux, State.ux, h]
  exact engineTurn_finish _ s

theorem exec_msCalc_of_none {s : State} (h : msCalc (s.x .freq).toNat (s.x .pllf).toNat = none) :
    exec .msCalc s = .next (enterError .divZero s) := by
  rw [exec, execMsCalc, scriptMsCalc, State.ux, State.ux, h]
  exact engineTurn_raise _ s

theorem msFlags_toNat (divBy4 ovf free : Bool) :
    ((flagsWord true divBy4 divBy4 ovf free).toNat : Int) =
      1 + (if divBy4 then 6 else 0) + (if ovf then 8 else 0) + 16 * (free.toNat : Int) := by
  revert divBy4 ovf free; decide

theorem writeRegs_msWrites (s : State) (r : MsResult) :
    s.writeRegs (msWrites r) =
      { s with
        regs :=
          { s.regs with
            a := regOf s.cfg.width r.a
            b := regOf s.cfg.width r.b
            c := regOf s.cfg.width r.c
            p1 := regOf s.cfg.width r.fields.p1
            p2 := regOf s.cfg.width r.fields.p2
            p3 := regOf s.cfg.width r.fields.p3
            rf := regOf s.cfg.width r.rf
            flags := regOf s.cfg.width
              (1 + (if r.divBy4 then 6 else 0) + (if r.fields.ovf then 8 else 0) + 16 * (r.free.toNat : Int)) } } := by
  simp only [msWrites, State.writeRegs, State.setX, Regs.set, msFlags_toNat]

theorem MsResult.fields_eq (a b c rf : Int) (divBy4 free : Bool) :
    (MsResult.mk a b c rf divBy4 free).fields =
      ⟨if divBy4 then 0 else 128 * a + 128 * b / c - 512,
        if divBy4 then 0 else 128 * b - c * (128 * b / c), if divBy4 then 1 else c⟩ := by
  cases divBy4 <;> rfl

/-- Settles O21: the mode decides the divider, and the registers hold it and the fields encoded from it. -/
theorem msCalcResults : Obligations.MsCalcResults := by
  intro s f pll d4 result a0 aFree a f' b c
  have hwrites (a b c rf : Nat) (free : Bool) (h : msCalc (s.x .freq).toNat pll = some ⟨a, b, c, rf, d4, free⟩) :
      exec .msCalc s = .next (result a b c rf free.toNat) := by
    rw [exec_msCalc_of_some h, writeRegs_msWrites, MsResult.fields_eq, DividerFields.ovf, fieldsOvf_eq]
    rfl
  have haFree : msFreeQuotient f = aFree := by
    simp only [msFreeQuotient, aFree, d4, decide_eq_true_eq, a0]
  refine ⟨fun hfree => ?_, fun hlocked hne => ?_, fun hlocked hzero => ?_⟩
  · refine hwrites aFree 0 1 (aFree * f) true ?_
    rw [hfree, ← haFree]
    exact msCalc_free _
  · exact hwrites a b c f' false (msCalc_locked hlocked rfl hne)
  · exact exec_msCalc_of_none (msCalc_divZero hlocked hzero)

/-! ## Locked mode with a quotient in range (R112, R115) -/

theorem wroteMs_a (s : State) (r : MsResult) :
    (completeCommand (s.writeRegs (msWrites r))).x .a = regOf s.cfg.width r.a := rfl
theorem wroteMs_b (s : State) (r : MsResult) :
    (completeCommand (s.writeRegs (msWrites r))).x .b = regOf s.cfg.width r.b := rfl
theorem wroteMs_rf (s : State) (r : MsResult) :
    (completeCommand (s.writeRegs (msWrites r))).x .rf = regOf s.cfg.width r.rf := rfl

/-- A quotient and the truncated `k`-ths of its remainder are the truncated quotient in `k`-ths. -/
theorem div_mul_add_mod_mul_div {d : Nat} (hd : 0 < d) (n k : Nat) :
    n / d * k + n % d * k / d = n * k / d := by
  conv_rhs => rw [← Nat.div_add_mod n d, add_mul, mul_assoc, Nat.mul_add_div hd]

/-- Settles O52: A and B together are PLLF·10^6 / f truncated, and every value fits its register. -/
theorem msLockedModeAccuracy : Obligations.MsLockedModeAccuracy := by
  intro s f pll hwidth hlow hhigh
  have hne : pll ≠ 0 := by rintro h; simp [h] at hlow
  obtain ⟨hfpos, hfmax⟩ : 0 < f ∧ f ≤ 22500000000 := by omega
  have hexec : exec .msCalc s = .next (completeCommand (s.writeRegs (msWrites
      ⟨(pll / f : Nat), (pll % f * 1000000 / f : Nat), _, f, _, _⟩))) :=
    exec_msCalc_of_some (msCalc_locked hne (msLockedFreq_of_in_range hlow hhigh) hfpos.ne')
  clear_value f pll
  have hdiv := div_mul_add_mod_mul_div hfpos pll 1000000
  have hb : pll % f * 1000000 / f < 1000000 :=
    Nat.div_lt_of_lt_mul (Nat.mul_lt_mul_of_pos_right (Nat.mod_lt pll hfpos) (by decide))
  have hreg (v : Nat) (hv : v < 2 ^ 35) : (regOf s.cfg.width v).toNat = v := by
    have hfits : (2 : Int) ^ 35 ≤ 2 ^ s.cfg.width := pow_le_pow_right₀ (by decide) hwidth
    have := toNat_regOf s.cfg.width v (by omega) (by omega) (by omega)
    omega
  refine ⟨_, hexec, ?_⟩
  simp only [wroteMs_a, wroteMs_b, wroteMs_rf, hreg f (by omega), hreg (_ / _) (hb.trans (by decide)),
    hreg (pll / f) (by omega), hdiv]
  exact ⟨trivial, hb, trivial, Nat.mul_div_le _ f, mul_add_one f _ ▸ Nat.lt_mul_div_succ _ hfpos⟩

end Sys2Proof.Machine
end

section
/-! PROOFS. MS67_CALC: its two modes, the not-ok result, and that the free mode gives an even divider in 6 to 256
(R120 to R123). -/

namespace Sys2Proof.Machine

/-! ## What MS67_CALC chooses and writes (R120, R121, R123) -/

/-- The divider of the free mode, with the odd quotient made even, clamped and stepped (R121). -/
def ms67FreeDivider (cfg : Params) (f : Int) : Int :=
  ms67Step (clamp (makeEven cfg.ms67Even ((90000000000 - (cfg.ms67Margin : Int)) / f)) 6 254) f

theorem ms67Calc_of_free {cfg : Params} {freq pll f : Int}
    (hf : clamp freq Config.msMinFreq Config.ms67MaxFreq = f) (h : pll = 0) :
    ms67Calc cfg freq pll = ⟨ms67FreeDivider cfg f, ms67FreeDivider cfg f * f, true, true⟩ := by
  subst hf
  exact if_pos h

/-- The locked mode serves the frequency exactly, with a divider in range (R120). -/
abbrev Ms67Fits (pll f : Int) : Prop := pll % f = 0 ∧ 6 ≤ pll / f ∧ pll / f ≤ 254

theorem ms67Calc_of_locked {cfg : Params} {freq pll f : Int}
    (hf : clamp freq Config.msMinFreq Config.ms67MaxFreq = f) (h : pll ≠ 0) :
    ms67Calc cfg freq pll =
      let ok := decide (Ms67Fits pll f)
      ⟨pll / f, if ok then f else 0, ok, false⟩ := by
  subst hf
  simp only [Ms67Fits, Bool.decide_and, ← Bool.and_assoc]
  exact if_neg h

theorem exec_ms67Calc {s : State} {r : Ms67Result} (h : ms67Calc s.cfg (s.ux .freq) (s.ux .pllf) = r) :
    exec .ms67Calc s = .next (completeCommand (s.writeRegs (ms67Writes r))) := by
  subst h
  exact engineTurn_finish _ s

theorem regOf_zero (w : Nat) : regOf w 0 = 0 := by simp [regOf]

theorem writeRegs_ms67Writes_ok (s : State) (a rf : Int) (free : Bool) :
    s.writeRegs (ms67Writes ⟨a, rf, true, free⟩) =
      { s with
        regs :=
          { s.regs with
            a := regOf s.cfg.width a
            b := 0
            c := regOf s.cfg.width 1
            rf := regOf s.cfg.width rf
            flags := regOf s.cfg.width (flagsWord true false false (decide (255 < a)) free).toNat } } := by
  simp [ms67Writes, State.writeRegs, State.setX, Regs.set, regOf_zero]

theorem writeRegs_ms67Writes_not_ok (s : State) (a : Int) :
    s.writeRegs (ms67Writes ⟨a, 0, false, false⟩) = { s with regs := { s.regs with rf := 0, flags := 0 } } := by
  simp [ms67Writes, State.writeRegs, State.setX, Regs.set, regOf_zero, flagsWord]

theorem ms67FreeFlags_toNat (a : Int) :
    ((flagsWord true false false (decide (255 < a)) true).toNat : Int) = if 255 < a then 0x19 else 0x11 := by
  by_cases h : 255 < a <;> simp [h, flagsWord]

/-- Settles O22: the mode and the fit of the locked mode decide what is written. -/
theorem ms67CalcResults : Obligations.Ms67CalcResults := by
  intro s f pll a0 a1 a2 a3 reg result
  have hf : clamp (s.ux .freq) Config.msMinFreq Config.ms67MaxFreq = f := by
    simp [clamp_eq_max_min, f, State.ux]
  have hpll : s.ux .pllf = pll := rfl
  have ha1 : makeEven s.cfg.ms67Even a0 = a1 := by
    by_cases h : a0 % 2 = 0
    · exact (if_neg (by omega)).trans (if_pos h).symm
    · exact (if_pos (by omega)).trans (if_neg h).symm
  have ha3 : ms67FreeDivider s.cfg f = a3 := by
    rw [ms67FreeDivider, ha1, clamp_eq_max_min _ _ _ (by decide)]
    rfl
  refine ⟨fun hfree => ?_, fun hlocked hexact hlow hhigh => ?_, fun hlocked hmisses => ?_⟩
  · rw [exec_ms67Calc (ms67Calc_of_free hf hfree), ha3, writeRegs_ms67Writes_ok, ms67FreeFlags_toNat]
    rfl
  · have hfits : decide (Ms67Fits pll f) = true := decide_eq_true ⟨hexact, hlow, hhigh⟩
    have hovf : decide (255 < pll / f) = false := decide_eq_false (by omega)
    rw [exec_ms67Calc (ms67Calc_of_locked hf hlocked), hpll, hfits, writeRegs_ms67Writes_ok, hovf]
    rfl
  · have hfits : decide (Ms67Fits pll f) = false := decide_eq_false hmisses
    rw [exec_ms67Calc (ms67Calc_of_locked hf hlocked), hpll, hfits]
    simp only [Bool.false_eq_true, if_false, writeRegs_ms67Writes_not_ok]
    rfl

/-! ## The free mode's divider (R121) -/

theorem makeEven_even (mode : EvenMode) (a : Int) : makeEven mode a % 2 = 0 := by
  unfold makeEven
  split
  · cases mode <;> dsimp only <;> omega
  · omega

theorem ms67FreeDivider_bounds (cfg : Params) {f : Int} (hf : f ≤ 15000000000) :
    ms67FreeDivider cfg f % 2 = 0 ∧ 6 ≤ ms67FreeDivider cfg f ∧ ms67FreeDivider cfg f ≤ 256 := by
  unfold ms67FreeDivider
  have heven := makeEven_even cfg.ms67Even ((90000000000 - (cfg.ms67Margin : Int)) / f)
  rw [clamp_eq_max_min _ _ _ (by decide), ms67Step]
  generalize ha : max 6 (min 254 (makeEven _ _)) = a
  have hmax : a = 6 → a * f ≤ 90000000000 := by rintro rfl; omega
  dsimp only [Config.vcoMax, Config.vcoMin]
  split_ifs <;> omega

theorem wroteMs67_a (s : State) (a rf : Int) (free : Bool) :
    (completeCommand (s.writeRegs (ms67Writes ⟨a, rf, true, free⟩))).x .a = regOf s.cfg.width a := rfl
theorem wroteMs67_flags (s : State) (a rf : Int) (free : Bool) :
    (completeCommand (s.writeRegs (ms67Writes ⟨a, rf, true, free⟩))).x .flags =
      regOf s.cfg.width (flagsWord true false false (decide (255 < a)) free).toNat := rfl

/-- A register of 5 bits or more holds the whole FLAGS word (R30). -/
theorem regOf_flagsWord {w : Nat} (hw : 5 ≤ w) (ok divBy4 intMode ovf free : Bool) :
    regOf w (flagsWord ok divBy4 intMode ovf free).toNat = flagsWord ok divBy4 intMode ovf free := by
  have hlt : (flagsWord ok divBy4 intMode ovf free).toNat < 2 ^ 5 := by
    revert ok divBy4 intMode ovf free; decide
  exact regOf_toNat w _ (hlt.trans_le (Nat.pow_le_pow_right two_pos hw))

/-- Settles O55: the clamped even quotient steps down only where it is at least 8, and the registers hold the
result. -/
theorem ms67FreeModeIsEvenAndBounded : Obligations.Ms67FreeModeIsEvenAndBounded := by
  intro s hwidth hpll
  obtain ⟨f, hf⟩ : ∃ f, clamp (s.ux .freq) Config.msMinFreq Config.ms67MaxFreq = f := ⟨_, rfl⟩
  have hmax : f ≤ 15000000000 := hf ▸ (clamp_mem _ _ _ (by decide)).2
  obtain ⟨heven, hlow, hhigh⟩ := ms67FreeDivider_bounds s.cfg hmax
  have hfree : s.ux .pllf = 0 := by rw [State.ux, hpll]; rfl
  have hfits : (2 : Int) ^ 9 ≤ 2 ^ s.cfg.width := pow_le_pow_right₀ (by decide) hwidth
  refine ⟨_, exec_ms67Calc (ms67Calc_of_free hf hfree), ?_⟩
  rw [wroteMs67_a, wroteMs67_flags]
  generalize ms67FreeDivider s.cfg f = a at heven hlow hhigh
  have ha : ((regOf s.cfg.width a).toNat : Int) = a :=
    toNat_regOf _ a (by omega) (by omega) (by omega)
  obtain ⟨-, -, -, hovf, -⟩ := flagsWord_bits true false false (decide (255 < a)) true
  rw [regOf_flagsWord (by omega), hovf, decide_eq_true_eq]
  refine ⟨?_, ?_, ?_, ?_⟩ <;> omega

end Sys2Proof.Machine
end

section
/-! PROOFS. The R-divider selectors: what RDIV_SEL and RDIV67_SEL write, band by band and outside every band, and
where a scaled frequency lies (R135 to R138). -/

namespace Sys2Proof.Machine

/-! ## What a selector writes (R135, R136) -/

/-- The selector `i` scales into the bands of `m`. -/
abbrev SelectsBy (i : Instr) (m : Nat) (s : State) : Prop :=
  (i = .rdivSel ∧ m = s.cfg.clkoutMin) ∨ (i = .rdiv67Sel ∧ m = s.cfg.clkout67Min)

theorem exec_rdivSelector {i : Instr} {m f k : Nat} {s : State} (hi : SelectsBy i m s)
    (hf : (s.x .freq).toNat = f) (hk : rdivSelect m f = k) :
    exec i s = .next
      { s with
        regs := { s.regs with freq := regOf s.cfg.width (f * 2 ^ k : Nat), rdiv := regOf s.cfg.width k }
        flight := none
        ci := s.ci + 1 } := by
  subst hf hk
  push_cast
  obtain ⟨rfl, rfl⟩ | ⟨rfl, rfl⟩ := hi <;> exact engineTurn_finish _ s

theorem regOf_natCast (w n : Nat) : regOf w n = BitVec.ofNat 64 (n % 2 ^ w) := by
  rw [regOf, ← BitVec.ofInt_natCast]
  push_cast
  rfl

/-! ## The bands -/

/-- The band `j` of `m` (R135). -/
abbrev InBand (m j f : Nat) : Prop := m * 2 ^ j ≤ f ∧ f < m * 2 ^ (j + 1)

/-- The bands follow one another without a gap, so what is in none of the first `n` is past them all. -/
theorem le_of_no_band {m f n : Nat} (hlow : m ≤ f) (hnone : ∀ j < n, ¬ InBand m j f) : m * 2 ^ n ≤ f := by
  induction n with
  | zero => simpa using hlow
  | succ n ih =>
    have hn : m * 2 ^ n ≤ f := ih fun j hj => hnone j (hj.trans n.lt_succ_self)
    exact not_lt.mp fun hlt => hnone n n.lt_succ_self ⟨hn, hlt⟩

theorem exists_band {m f n : Nat} (hlow : m ≤ f) (hhigh : f < m * 2 ^ n) : ∃ j < n, InBand m j f := by
  by_contra hnone
  exact hhigh.not_ge (le_of_no_band hlow fun j hj hband => hnone ⟨j, hj, hband⟩)

/-- Scaling moves every band into the one above the last (R138). -/
theorem scaled_inBand {m j f : Nat} (hj : j ≤ 7) (h : InBand m j f) : InBand m 7 (f * 2 ^ (7 - j)) := by
  obtain ⟨hlow, hhigh⟩ := h
  have hpow : 2 ^ j * 2 ^ (7 - j) = 2 ^ 7 := by rw [← pow_add, Nat.add_sub_cancel' hj]
  constructor
  · calc m * 2 ^ 7 = m * 2 ^ j * 2 ^ (7 - j) := by rw [mul_assoc, hpow]
      _ ≤ f * 2 ^ (7 - j) := Nat.mul_le_mul_right _ hlow
  · calc f * 2 ^ (7 - j) < m * 2 ^ (j + 1) * 2 ^ (7 - j) := Nat.mul_lt_mul_of_pos_right hhigh (by positivity)
      _ = m * 2 ^ (7 + 1) := by rw [pow_succ 2 7, ← hpow]; ring

/-- Settles O23: the band decides the code, and outside every band the code 0 leaves FREQ as it was. -/
theorem rdivSelectorResults : Obligations.RdivSelectorResults := by
  intro s i m hi f
  refine ⟨fun j hj hlow hhigh => ?_, fun hfits hnone => ?_⟩
  · have hcode : rdivSelect m f = 7 - j :=
      rdivSelect_of_band m _ j hj (by exact_mod_cast hlow) (by exact_mod_cast hhigh)
    rw [exec_rdivSelector hi rfl hcode, regOf_natCast, regOf_natCast]
  · have houtside : f < m ∨ m * 2 ^ 7 ≤ f :=
      (lt_or_ge f m).imp_right fun hlow => le_of_no_band hlow fun j hj => hnone j (by omega)
    have hcode : rdivSelect m f = 0 :=
      rdivSelect_of_no_band m _ (by exact_mod_cast houtside) (by positivity)
    have hfreq : regOf s.cfg.width (f * 2 ^ 0 : Nat) = s.x .freq := by
      rw [pow_zero, mul_one, regOf_toNat _ _ hfits]
    rw [exec_rdivSelector hi rfl hcode, hfreq, Nat.cast_zero, regOf_zero]
    rfl

/-- Settles O57: the bands of 400,000 cover the range, and a register of 27 bits holds the scaled frequency. -/
theorem scaledFrequencyPassesTheClamp : Obligations.ScaledFrequencyPassesTheClamp := by
  intro s t hmin hwidth hexec hlow hhigh
  obtain ⟨j, hj, hband⟩ : ∃ j < 7, InBand 400000 j (s.x .freq).toNat := exists_band hlow hhigh
  obtain ⟨hinBand, -⟩ := rdivSelectorResults s .rdivSel 400000 (.inl ⟨rfl, hmin.symm⟩)
  have ht := Host.Outcome.next.inj (hexec.symm.trans (hinBand j (by omega) hband.1 hband.2))
  obtain ⟨hscaledLow, hscaledHigh⟩ := scaled_inBand hj.le hband
  have hfits : 2 ^ 27 ≤ 2 ^ s.cfg.width := Nat.pow_le_pow_right two_pos hwidth
  have hreg (n : Nat) (hn : n < 2 ^ 27) : (BitVec.ofNat 64 (n % 2 ^ s.cfg.width)).toNat = n := by
    rw [Nat.mod_eq_of_lt (hn.trans_le hfits), BitVec.toNat_ofNat]
    exact Nat.mod_eq_of_lt (hn.trans (by decide))
  have hfreq : (t.x .freq).toNat = (s.x .freq).toNat * 2 ^ (7 - j) := ht ▸ hreg _ (by omega)
  have hrdiv : (t.x .rdiv).toNat = 7 - j := ht ▸ hreg _ (by omega)
  rw [hfreq, hrdiv]
  exact ⟨by omega, by omega, rfl, by omega, by omega⟩

end Sys2Proof.Machine
end

section
/-! PROOFS. The commands of the packer and control-bit editor, the Register Port answering: the transactions each one
completes with, and what the bytes it writes hold (R145 to R171). -/

namespace Sys2Proof.Machine

/-! ## A command that completes without writing a register -/

@[simp] theorem settle_read (m : Memory) (a : Nat) (b : Byte) : m.settle ⟨.readByte a, .byte b⟩ = m := rfl
@[simp] theorem settle_done (m : Memory) (r : Request) :
    m.settle ⟨r, .done⟩ = m.writeBytes r.addr r.payload := rfl

/-- The command has ended without an error or a register write, and these were its transactions. -/
def State.completedWith (s : State) (xs : List Transaction) : State :=
  { s with
    flight := none
    ci := s.ci + 1
    replies := s.replies.drop xs.length
    draws := s.draws + xs.length
    trace := s.trace ++ xs
    written := xs.foldl Memory.settle s.written }

theorem completedWith_cons_read (s : State) (a : Nat) (b : Byte) (xs : List Transaction) :
    s.completedWith (⟨.readByte a, .byte b⟩ :: xs) = (readCompleted a b s.dropReply).completedWith xs := by
  simp [State.completedWith, readCompleted, State.dropReply, Nat.add_comm, Nat.add_left_comm]

theorem completedWith_cons_write (s : State) (r : Request) (xs : List Transaction) :
    s.completedWith (⟨r, .done⟩ :: xs) = (writeCompleted r s.dropReply).completedWith xs := by
  simp [State.completedWith, writeCompleted, State.dropReply, Nat.add_comm, Nat.add_left_comm]

/-- Run from `s`, the script completes with the transactions `xs` and writes no register. -/
def Script.Completes (p : Script) (s : State) (xs : List Transaction) : Prop := p.run s = s.completedWith xs

theorem completes_finish (s : State) : (Script.finish []).Completes s [] := by
  simp [Script.Completes, State.completedWith, State.writeRegs, completeCommand]

theorem completes_readByte {s : State} {a : Nat} {b : Byte} {k : Byte → Script} {xs : List Transaction}
    (h : s.replyAt 0 = .returns b) (hk : (k b).Completes (readCompleted a b s.dropReply) xs) :
    (Script.readByte a k).Completes s (⟨.readByte a, .byte b⟩ :: xs) := by
  rw [Script.Completes, run_readByte_returns a k s b h, completedWith_cons_read]
  exact hk

theorem completes_writeByte {s : State} {a : Nat} {v b : Byte} {k : Script} {xs : List Transaction}
    (h : s.replyAt 0 = .returns b) (hk : k.Completes (writeCompleted (.writeByte a v) s.dropReply) xs) :
    (Script.writeByte a v k).Completes s (⟨.writeByte a v, .done⟩ :: xs) := by
  rw [Script.Completes, run_writeByte_returns a v k s b h, completedWith_cons_write]
  exact hk

theorem completes_writeBulk {s : State} {a : Nat} {bs : List Byte} {b : Byte} {k : Script}
    {xs : List Transaction} (h : s.replyAt 0 = .returns b)
    (hk : k.Completes (writeCompleted (.writeBulk a bs) s.dropReply) xs) :
    (Script.writeBulk a bs k).Completes s (⟨.writeBulk a bs, .done⟩ :: xs) := by
  rw [Script.Completes, run_writeBulk_returns a bs k s b h, completedWith_cons_write]
  exact hk

/-- A byte read and written back as `f` of it, both calls answered. -/
theorem completes_readByte_writeByte {s : State} {a : Nat} {v w : Byte} {k : Script} {xs : List Transaction}
    (f : Byte → Byte) (hread : s.replyAt 0 = .returns v) (hwrite : s.replyAt 1 = .returns w)
    (hk : k.Completes (writeCompleted (.writeByte a (f v)) (readCompleted a v s.dropReply).dropReply) xs) :
    (Script.readByte a fun v => .writeByte a (f v) k).Completes s
      (⟨.readByte a, .byte v⟩ :: ⟨.writeByte a (f v), .done⟩ :: xs) :=
  completes_readByte hread (completes_writeByte (by simpa using hwrite) hk)

theorem exec_of_completes {i : Instr} {s : State} {xs : List Transaction} (hfresh : s.flight = some Flight.fresh)
    (h : (script i s).Completes s xs) : exec i s = .next (s.completedWith xs) := by
  rw [exec_starting i s hfresh]
  exact congrArg _ h

/-! ## The divider fields (R145 to R147) -/

/-- The divider bytes of a state hold the low bits of P1, P2 and P3 and the kept bits of +2 (R145). -/
theorem dividerBytes_of_state (s : State) (top : BitVec 6) :
    ∃ b0 b1 b2 b3 b4 b5 b6 b7 : Byte,
      dividerBytes s.p1Field s.p2Field s.p3Field top = [b0, b1, b2, b3, b4, b5, b6, b7] ∧
      b2.toNat / 4 = top.toNat ∧
      b2.toNat % 4 * 65536 + b3.toNat * 256 + b4.toNat = (s.x .p1).toNat % 2 ^ 18 ∧
      b5.toNat % 16 * 65536 + b6.toNat * 256 + b7.toNat = (s.x .p2).toNat % 2 ^ 20 ∧
      b5.toNat / 16 * 65536 + b0.toNat * 256 + b1.toNat = (s.x .p3).toNat % 2 ^ 20 := by
  have hspec := dividerBytes_spec s.p1Field s.p2Field s.p3Field top
  simp only [State.p1Field, State.p2Field, State.p3Field, BitVec.extractLsb'_toNat, Nat.shiftRight_zero]
    at hspec ⊢
  exact hspec

/-- Settles O24: one bulk write of the divider bytes, with nothing kept at +2. -/
theorem packPllResult : Obligations.PackPllResult := by
  intro s p w hfresh hreply base
  obtain ⟨b0, b1, b2, b3, b4, b5, b6, b7, hbytes, htop, hp1, hp2, hp3⟩ := dividerBytes_of_state s 0
  have hbase : pllBase p = base := by cases p <;> rfl
  have hrun : (script (.packPll p) s).Completes s
      [⟨.writeBulk base [b0, b1, b2, b3, b4, b5, b6, b7], .done⟩] := by
    rw [script, scriptPackPll, hbase, hbytes]
    exact completes_writeBulk hreply (completes_finish _)
  have hlow : b2.toNat < 4 := by
    have hzero : (0 : BitVec 6).toNat = 0 := rfl
    omega
  rw [Nat.mod_eq_of_lt hlow] at hp1
  exact ⟨b0, b1, b2, b3, b4, b5, b6, b7, exec_of_completes hfresh hrun, hlow, hp1, hp2, hp3⟩

/-- Settles O25: the bulk write follows the read of +2 and keeps its upper six bits. -/
theorem packMsResult : Obligations.PackMsResult := by
  intro s ch v w hch hfresh hread hwrite base
  obtain ⟨b0, b1, b2, b3, b4, b5, b6, b7, hbytes, htop, hfields⟩ :=
    dividerBytes_of_state s (v.extractLsb' 2 6)
  have hrun : (script (.packMs ch) s).Completes s
      [⟨.readByte (base + 2), .byte v⟩, ⟨.writeBulk base [b0, b1, b2, b3, b4, b5, b6, b7], .done⟩] := by
    rw [script, scriptPackMs, whenLegal_of_legal (ok := (Instr.packMs ch).wf) (decide_eq_true hch)]
    refine completes_readByte hread ?_
    rw [hbytes]
    exact completes_writeBulk (by simpa using hwrite) (completes_finish _)
  have hkept : b2.toNat / 4 = v.toNat / 4 := by
    have hv := v.isLt
    rw [htop, BitVec.extractLsb'_toNat, Nat.shiftRight_eq_div_pow]
    omega
  exact ⟨b0, b1, b2, b3, b4, b5, b6, b7, exec_of_completes hfresh hrun, hkept, hfields⟩

/-! ## The commands of one write (R148, R160, R171) -/

theorem aByte_toNat (s : State) : s.aByte.toNat = (s.x .a).toNat % 256 := BitVec.extractLsb'_toNat ..

/-- The three VCXO bytes, low byte first, are VXP modulo 2^22 (R171). -/
theorem vcxoBytes_of_state (s : State) :
    ∃ b0 b1 b2 : Byte, vcxoBytes s.vxpField = [b0, b1, b2] ∧
      b0.toNat + 256 * b1.toNat + 65536 * b2.toNat = (s.x .vxp).toNat % 2 ^ 22 := by
  refine ⟨_, _, _, rfl, ?_⟩
  simp only [State.vxpField, BitVec.toNat_setWidth, BitVec.extractLsb'_toNat, Nat.shiftRight_eq_div_pow]
  omega

/-- Settles O26: each of them is one answered write. -/
theorem singleWriteCommandResults : Obligations.SingleWriteCommandResults := by
  intro s w hfresh hreply result
  have hwrite (i : Instr) (addr : Nat) (v : Byte) (hi : script i s = .writeByte addr v (.finish [])) :
      exec i s = .next (result (.writeByte addr v) addr [v]) :=
    exec_of_completes hfresh (hi ▸ completes_writeByte hreply (completes_finish _))
  refine ⟨fun ch addr hch => ⟨s.aByte, aByte_toNat s, hwrite _ addr s.aByte ?_⟩,
    hwrite _ 177 0x20 rfl, hwrite _ 177 0x80 rfl, hwrite _ 177 0xA0 rfl, ?_⟩
  · obtain ⟨rfl, rfl⟩ | ⟨rfl, rfl⟩ := hch <;> rfl
  · obtain ⟨b0, b1, b2, hbytes, hvalue⟩ := vcxoBytes_of_state s
    have hrun : (script .packVcxo s).Completes s [⟨.writeBulk 162 [b0, b1, b2], .done⟩] := by
      rw [script, scriptPackVcxo, hbytes]
      exact completes_writeBulk hreply (completes_finish _)
    exact ⟨b0, b1, b2, exec_of_completes hfresh hrun, hvalue⟩

/-! ## The read-modify-write commands (R149, R150, R155 to R157) -/

theorem rdivCode_getLsbD (s : State) {j : Nat} (hj : j < 3) : s.rdivCode.getLsbD j = (s.x .rdiv).getLsbD j := by
  simp [State.rdivCode, hj]

theorem msctlByte_of_state (s : State) (v : Byte) (j : Nat) (hj : j < 8) :
    (msctlByte v s.rdivCode s.divBy4Flag).getLsbD j =
      if 4 ≤ j ∧ j ≤ 6 then (s.x .rdiv).getLsbD (j - 4)
      else if 2 ≤ j ∧ j ≤ 3 then (s.x .flags).getLsbD 1 else v.getLsbD j := by
  rw [msctlByte_getLsbD v _ _ j hj]
  exact ite_congr rfl (fun hcode => rdivCode_getLsbD s (by omega)) fun _ => rfl

theorem rdiv6Byte_of_state (s : State) (v : Byte) (j : Nat) (hj : j < 8) :
    (rdiv6Byte v s.rdivCode).getLsbD j = if 0 ≤ j ∧ j < 3 then (s.x .rdiv).getLsbD j else v.getLsbD j := by
  rw [rdiv6Byte_getLsbD v _ j hj]
  exact ite_congr (by simp) (fun hcode => rdivCode_getLsbD s hcode.2) fun _ => rfl

theorem rdiv7Byte_of_state (s : State) (v : Byte) (j : Nat) (hj : j < 8) :
    (rdiv7Byte v s.rdivCode).getLsbD j =
      if 4 ≤ j ∧ j < 7 then (s.x .rdiv).getLsbD (j - 4) else v.getLsbD j := by
  rw [rdiv7Byte_getLsbD v _ j hj]
  exact ite_congr rfl (fun hcode => rdivCode_getLsbD s (by omega)) fun _ => rfl

theorem eq_six_or_seven : ∀ ch : Channel, 6 ≤ ch.val → ch = 6 ∨ ch = 7 := by decide

/-- Settles O27: two bytes are read and written back for channels 0 to 5, byte 92 alone for channels 6 and 7. -/
theorem msctlWrResult : Obligations.MsctlWrResult := by
  intro s ch v w u z hfresh hreply0 hreply1 addr
  refine ⟨fun hch hreply2 hreply3 => ?_, fun hch => ?_⟩
  · have hrun : (script (.msctlWr ch) s).Completes s
        [⟨.readByte addr, .byte v⟩, ⟨.writeByte addr (msctlByte v s.rdivCode s.divBy4Flag), .done⟩,
          ⟨.readByte (16 + ch.val), .byte u⟩,
          ⟨.writeByte (16 + ch.val) (intModeByte u s.intModeFlag), .done⟩] := by
      rw [script, scriptMsctlWr, if_pos hch]
      refine completes_readByte_writeByte (msctlByte · s.rdivCode s.divBy4Flag) hreply0 hreply1 ?_
      exact completes_readByte_writeByte (intModeByte · s.intModeFlag) (by simpa using hreply2)
        (by simpa using hreply3) (completes_finish _)
    exact ⟨_, _, exec_of_completes hfresh hrun, msctlByte_of_state s v, intModeByte_getLsbD u _⟩
  · obtain rfl | rfl := eq_six_or_seven ch hch
    · have hrun : (script (.msctlWr 6) s).Completes s _ :=
        completes_readByte_writeByte (rdiv6Byte · s.rdivCode) hreply0 hreply1 (completes_finish _)
      exact ⟨_, exec_of_completes hfresh hrun, rdiv6Byte_of_state s v⟩
    · have hrun : (script (.msctlWr 7) s).Completes s _ :=
        completes_readByte_writeByte (rdiv7Byte · s.rdivCode) hreply0 hreply1 (completes_finish _)
      exact ⟨_, exec_of_completes hfresh hrun, rdiv7Byte_of_state s v⟩

/-- Settles O28: the field is inserted into the byte read, at the place its row of R156 gives. -/
theorem fieldWrResult : Obligations.FieldWrResult := by
  intro s f ch imm v w hwf hfresh hreply0 hreply1 n row addr lsb width
  have hrow : fieldTable f ch = ⟨addr, lsb, width, (fieldTable f ch).legal⟩ := by
    cases f with
    | disState | rdiv => clear hwf; revert ch; decide
    | _ => rfl
  have hrun : (script (.fieldWr f ch imm) s).Completes s
      [⟨.readByte addr, .byte v⟩, ⟨.writeByte addr (insertField v lsb width imm), .done⟩] := by
    rw [script, scriptFieldWr, whenLegal_of_legal hwf, hrow]
    exact completes_readByte_writeByte (insertField · lsb width imm) hreply0 hreply1 (completes_finish _)
  have himm : imm.toNat < 2 ^ width := by
    have hfits := (fieldWr_wellFormed.mp hwf).2
    rwa [hrow] at hfits
  exact ⟨_, exec_of_completes hfresh hrun, insertField_getLsbD v imm lsb width himm⟩

end Sys2Proof.Machine
end

section
/-! PROOFS. Each bit of a device register belongs to at most one control field (R156). -/

namespace Sys2Proof.Machine

/-- The control field, and the number of its channel, that R156 gives bit `j` of a register of the device map; a
bit without a field gets an arbitrary answer. -/
def bitOwner (r : DeviceRegion) (j : Nat) : Field × Nat :=
  match r with
  | .outputEnable => (.oeb, j)
  | .channelControl n =>
    (if j < 2 then .drv else if j < 4 then .src else if j = 4 then .inv else if j = 5 then .pllsel
      else if j = 6 then .int else .pdn, n)
  | .disableState03 => (.disState, j / 2)
  | .disableState47 => (.disState, 4 + j / 2)
  | .pllSource => (if j = 2 then .pllaSrc else if j = 3 then .pllbSrc else .clkinDiv, 0)
  | .phaseOffset n => (.phase, n)
  | .fanoutEnable => (if j = 7 then .fanoutClkin else if j = 6 then .fanoutXtal else .fanoutMs, 0)
  | .crystalLoad => (.xtalCl, 0)
  | .multisynth n => (if j < 4 then .divby4 else .rdiv, n)
  | .rdivider67 => (.rdiv, if j < 4 then 6 else 7)
  | .status | .interruptStatus | .pllParams _ | .multisynth67 _ | .vcxoParams | .pllReset => (.oeb, 0)

/-- Every bit of a legal control field is that field's own. -/
theorem bitOwner_of_field (f : Field) : ∀ (c : Channel) (j : Nat), j < 8 → (fieldTable f c).legal = true →
    (fieldTable f c).lsb ≤ j → j < (fieldTable f c).lsb + (fieldTable f c).width →
    bitOwner (fieldRegion f c) j = (f, c.val) := by
  cases f <;> decide

theorem fieldTable_width_pos (f : Field) (c : Channel) : 0 < (fieldTable f c).width := by
  revert c; cases f <;> decide

/-- Settles O59: fields at one address lie in one register of the map, where a common bit has one owner. -/
theorem controlFieldsDoNotOverlap : Obligations.ControlFieldsDoNotOverlap := by
  intro f g c d hf hg haddr hne
  by_contra hoverlap
  have hfpos := fieldTable_width_pos f c
  have hgpos := fieldTable_width_pos g d
  obtain ⟨hfregion, hffits⟩ := controlFieldsLieInTheirRegisters f c hf
  obtain ⟨hgregion, -⟩ := controlFieldsLieInTheirRegisters g d hg
  have hregion : fieldRegion f c = fieldRegion g d :=
    Option.some.inj (hfregion.symm.trans (haddr ▸ hgregion))
  obtain ⟨j, hj⟩ : ∃ j, j = max (fieldTable f c).lsb (fieldTable g d).lsb := ⟨_, rfl⟩
  have hfowner := bitOwner_of_field f c j (by omega) hf (by omega) (by omega)
  have hgowner := bitOwner_of_field g d j (by omega) hg (by omega) (by omega)
  rw [hregion, hgowner, Prod.mk.injEq] at hfowner
  exact hne (Prod.ext hfowner.1.symm (Fin.ext hfowner.2.symm))

end Sys2Proof.Machine
end

section
/-! PROOFS. The initialization poll (R182, R218): how the host's turn takes up its two actions. -/

namespace Sys2Proof.Machine

theorem step_pollInit {s : State} {rest : List HostAction} (hturn : s.busy = true → s.hostTurnsLeft ≠ 0)
    (hhost : s.host = .pollInit :: rest) : step s = .next (s.atHostTurn (pollRound ++ rest)) := by
  rw [step_of_host s hturn, hostTurn_pollInit _ rest (by split <;> exact hhost), State.atHostTurn]
  cases s.busy <;> rfl

theorem step_pollCheck {s : State} {rest : List HostAction} (hturn : s.busy = true → s.hostTurnsLeft ≠ 0)
    (hhost : s.host = .pollCheck :: rest) :
    step s = hostRead 0x0F8 (s.atHostTurn (if s.sysInit then .pollInit :: rest else rest)) := by
  rw [step_of_host s hturn, hostTurn_pollCheck _ rest (by split <;> exact hhost), State.atHostTurn]
  cases s.busy <;> rfl

/-- SYS_INIT is the lowest bit of STAT (R31). -/
theorem sysInit_eq_false_iff (s : State) : s.sysInit = false ↔ (s.x .stat).toNat % 2 = 0 := by
  rw [State.sysInit, ← BitVec.testBit_toNat, Nat.testBit_zero, decide_eq_false_iff_not, Nat.mod_two_not_eq_one]

/-- The host goes on after a round of the poll when SYS_INIT is 0, and with another round otherwise. -/
theorem pollCheck_continuation (s : State) (rest : List HostAction) :
    (if s.sysInit then .pollInit :: rest else rest) =
      if (s.x .stat).toNat % 2 = 0 then rest else .pollInit :: rest := by
  simp only [← sysInit_eq_false_iff]
  cases s.sysInit <;> rfl

/-- Settles O16: a round is STATUS_RD and a read of STAT, and that read's bit 0 decides what follows. -/
theorem initializationPoll : Obligations.InitializationPoll := by
  intro s rest hturn
  refine ⟨step_pollInit hturn, fun hhost => ?_⟩
  rw [step_pollCheck hturn hhost, pollCheck_continuation]
  exact hostRead_of_hostReg (hostReg_engine .stat) _

end Sys2Proof.Machine
end

section
/-! PROOFS. NOP (R181): its meaning, and the write to CMD that issues it. -/

namespace Sys2Proof.Machine

theorem exec_nop (s : State) : exec .nop s = .next (completeCommand s) := engineTurn_finish [] s

theorem decode_nop : decode 0 = .ok .nop := rfl

/-- A command just accepted runs in the next step when the host takes no turn before the engine's. -/
theorem step_acceptCommand {s : State} {w : CmdWord} {i : Instr} (hturn : s.hostTurnsLeft = 0)
    (hdecode : decode w = .ok i) : step (acceptCommand w s) = exec i (acceptCommand w s).beginEngineTurn :=
  stepRunsTheAcceptedCommand (acceptCommand w s) Flight.fresh i rfl hturn hdecode

/-- Settles O19: NOP's script is empty, so its turn only ends the command. -/
theorem nopOnlyCompletes : Obligations.NopOnlyCompletes := by
  refine ⟨exec_nop, fun s rest idle hhost => ⟨fun turns noError hturns => ?_, fun error => ?_⟩⟩
  · have haccept : step s = .next (acceptCommand 0 { s with host := rest }) :=
      (step_write_cmd idle hhost).trans (congrArg _ (if_pos noError))
    have hturn : s.hostTurnsLeft = 0 := by simp [State.hostTurnsLeft, hturns]
    have hrun := (step_acceptCommand (s := { s with host := rest }) hturn decode_nop).trans (exec_nop _)
    obtain rfl : s.turns.tail = turns := congrArg List.tail hturns
    rw [run_succ_next 1 s _ haccept, run_succ_next 0 _ _ hrun, idle]
    rfl
  · exact (step_write_cmd idle hhost).trans (congrArg _ (if_neg error))

end Sys2Proof.Machine
end

section
/-! PROOFS. The host's accesses while an error is pending and the clear (R198, R199), and ILLEGAL_CMD (R191). -/

namespace Sys2Proof.Machine

/-- Settles O7: a word that decodes to nothing is an error entry, whatever the command in progress has done. -/
theorem illegalWordRaisesIllegalCmd : Obligations.IllegalWordRaisesIllegalCmd := by
  intro s f e hf hturn hdecode
  have hfetch : decode (fetch s.beginEngineTurn) = .error e := hdecode
  rw [step_engine s f hf hturn, engineStep_eq_run, turnScript_of_error hfetch, run_raise]
  rfl

/-- Settles O9: CMD is the only register that ERRCAUSE guards. -/
theorem errorGateDropsCommands : Obligations.ErrorGateDropsCommands := by
  intro s idle error
  refine ⟨fun v rest hhost => ?_, fun r v rest hhost => ?_, fun r rest hhost => ?_⟩
  · rw [step_write_cmd idle hhost]
    exact congrArg _ (if_neg error)
  · rw [step_write (idle_host_moves idle) hhost, hostWrite_engine r v (s := s.atHostTurn rest) idle,
      atHostTurn_of_idle idle, State.setX, regOf_natCast]
  · rw [step_read (idle_host_moves idle) hhost, atHostTurn_of_idle idle,
      hostRead_of_hostReg (hostReg_engine r)]
    rfl

/-- Settles O11: the write is a clear, made on the host's turn. -/
theorem writeToErrcauseClears : Obligations.WriteToErrcauseClears := by
  intro s v rest hhost hturn
  rw [step_write hturn hhost]
  rfl

end Sys2Proof.Machine
end

section
/-! PROOFS. How a turn of the engine raises an error: the causes a script can raise, what its error entry does, and
which causes each command admits (R192 to R197). -/

namespace Sys2Proof.Machine

/-! ## The causes a script can raise -/

/-- The script raises `c` in some run; every transaction can fail (R192). -/
@[simp] def Script.CanRaise (c : Cause) : Script → Prop
  | .finish _ => False
  | .raise d => c = d
  | .readByte _ k => c = .transport ∨ ∃ b, (k b).CanRaise c
  | .writeByte _ _ k => c = .transport ∨ k.CanRaise c
  | .writeBulk _ _ k => c = .transport ∨ k.CanRaise c

theorem not_canRaise_inherited (c : Cause) : Script.Inherited fun p => ¬ p.CanRaise c where
  readByte _ _ b h hk := h (.inr ⟨b, hk⟩)
  writeByte _ _ _ h hk := h (.inr hk)
  writeBulk _ _ _ h hk := h (.inr hk)

theorem Script.CanRaise.of_resume {c : Cause} {p : Script} {f : Flight} (h : (p.resume f).CanRaise c) :
    p.CanRaise c :=
  not_imp_not.mp (fun hp => (not_canRaise_inherited c).resume hp f) h

/-! ## Error entry (R196) -/

/-- From `s` to `t` the command has ended in the error `c` (R196). -/
structure ErrorEntered (c : Cause) (s t : State) : Prop where
  errCause : t.errCause = c.code
  errCmd : t.errCmd = s.cmd
  errorLog : t.errorLog = s.errorLog ++ [⟨c.code, s.cmd⟩]
  regs : t.regs = s.regs
  flight : t.flight = none
  ci : t.ci = s.ci + 1

theorem enterError_errorEntered (c : Cause) (s : State) : ErrorEntered c s (enterError c s) :=
  ⟨rfl, rfl, rfl, rfl, rfl, rfl⟩

theorem transactionFailed_errorEntered (r : Request) (s : State) :
    ErrorEntered .transport s (transactionFailed r s.dropReply) :=
  ⟨rfl, rfl, rfl, rfl, rfl, rfl⟩

theorem ErrorEntered.of_readCompleted {c : Cause} {a : Nat} {b : Byte} {s t : State}
    (h : ErrorEntered c (readCompleted a b s.dropReply) t) : ErrorEntered c s t :=
  ⟨h.errCause, h.errCmd, h.errorLog, h.regs, h.flight, h.ci⟩

theorem ErrorEntered.of_writeCompleted {c : Cause} {r : Request} {s t : State}
    (h : ErrorEntered c (writeCompleted r s.dropReply) t) : ErrorEntered c s t :=
  ⟨h.errCause, h.errCmd, h.errorLog, h.regs, h.flight, h.ci⟩

/-- A turn raises nothing, or ends in one of the errors its script can raise. -/
theorem run_error_cases (p : Script) (s : State) :
    ((p.run s).errCause = s.errCause ∧ (p.run s).errorLog = s.errorLog) ∨
      ∃ c, p.CanRaise c ∧ ErrorEntered c s (p.run s) := by
  induction p generalizing s with
  | finish ws => left; simp
  | raise c => exact .inr ⟨c, rfl, enterError_errorEntered c s⟩
  | readByte a k ih =>
    simp only [Script.run]
    split
    next b _ =>
      exact (ih b (readCompleted a b s.dropReply)).imp_right
        fun ⟨c, hc, he⟩ => ⟨c, .inr ⟨b, hc⟩, he.of_readCompleted⟩
    · exact .inr ⟨.transport, .inl rfl, transactionFailed_errorEntered _ s⟩
    · exact .inl ⟨rfl, rfl⟩
  | writeByte a v k ih =>
    simp only [Script.run]
    split
    · exact (ih (writeCompleted (.writeByte a v) s.dropReply)).imp_right
        fun ⟨c, hc, he⟩ => ⟨c, .inr hc, he.of_writeCompleted⟩
    · exact .inr ⟨.transport, .inl rfl, transactionFailed_errorEntered _ s⟩
    · exact .inl ⟨rfl, rfl⟩
  | writeBulk a bs k ih =>
    simp only [Script.run]
    split
    · exact (ih (writeCompleted (.writeBulk a bs) s.dropReply)).imp_right
        fun ⟨c, hc, he⟩ => ⟨c, .inr hc, he.of_writeCompleted⟩
    · exact .inr ⟨.transport, .inl rfl, transactionFailed_errorEntered _ s⟩
    · exact .inl ⟨rfl, rfl⟩

theorem exec_error_cases {i : Instr} {s t : State} (h : exec i s = .next t) :
    (t.errCause = s.errCause ∧ t.errorLog = s.errorLog) ∨
      ∃ c, (script i s).CanRaise c ∧ ErrorEntered c s t := by
  rw [exec_eq] at h
  cases h
  exact (run_error_cases _ s).imp_right fun ⟨c, hc, he⟩ => ⟨c, hc.of_resume, he⟩

/-- Settles O33: with no error pending before, the one pending now is from an error entry. -/
theorem errorWritesNoEngineRegister : Obligations.ErrorWritesNoEngineRegister := by
  intro i s t noError hexec hraised
  obtain ⟨hcause, -⟩ | ⟨c, -, he⟩ := exec_error_cases hexec
  · exact absurd (hcause.trans noError) hraised
  · exact ⟨he.regs, he.errCmd, he.flight, he.ci⟩

/-! ## The causes of each command (R195) -/

/-- The causes the row of a command admits (R195). -/
def admittedCauses (i : Instr) : List Cause :=
  match i with
  | .nop | .ms67Calc | .rdivSel | .rdiv67Sel => []
  | .pllCalc | .pllCalcVcxo => [.badReference]
  | .msCalc => [.divZero]
  | .packPll _ | .packMs _ | .packMs67 _ | .msctlWr _ | .fieldWr _ _ _ | .pllRst _ _ | .packVcxo | .statusRd =>
    [.transport]

theorem pllScript_canRaise {rf : PllResult → Int} {s : State} {c : Cause} (h : (pllScript rf s).CanRaise c) :
    c = .badReference := by
  unfold pllScript at h
  dsimp only at h
  split at h
  · exact h
  · exact h.elim

theorem scriptMsCalc_canRaise {s : State} {c : Cause} (h : (scriptMsCalc s).CanRaise c) : c = .divZero := by
  unfold scriptMsCalc at h
  split at h
  · exact h
  · exact h.elim

/-- A legal command raises no ILLEGAL_CMD, so what it raises is of its row. -/
theorem mem_causes_of_canRaise {i : Instr} (hwf : i.WellFormed) {s : State} {c : Cause}
    (h : (script i s).CanRaise c) : c ∈ admittedCauses i := by
  cases i with
  | nop | ms67Calc | rdivSel | rdiv67Sel => exact h.elim
  | pllCalc => rw [script, scriptPllCalc] at h; exact List.mem_singleton.mpr (pllScript_canRaise h)
  | pllCalcVcxo => rw [script, scriptPllCalcVcxo] at h; exact List.mem_singleton.mpr (pllScript_canRaise h)
  | msCalc => exact List.mem_singleton.mpr (scriptMsCalc_canRaise h)
  | packPll p => simpa [script, scriptPackPll, admittedCauses] using h
  | packMs ch => simpa [script, scriptPackMs, whenLegal_of_legal hwf, admittedCauses] using h
  | packMs67 ch => simpa [script, scriptPackMs67, whenLegal_of_legal hwf, admittedCauses] using h
  | msctlWr ch =>
    simp only [script, scriptMsctlWr] at h
    split_ifs at h <;> simpa [admittedCauses] using h
  | fieldWr f ch imm => simpa [script, scriptFieldWr, whenLegal_of_legal hwf, rmw, admittedCauses] using h
  | pllRst resetA resetB => simpa [script, scriptPllRst, whenLegal_of_legal hwf, admittedCauses] using h
  | packVcxo => simpa [script, scriptPackVcxo, admittedCauses] using h
  | statusRd => simpa [script, scriptStatusRd, admittedCauses] using h

/-- Settles O32: ERRCAUSE stays 0 or becomes the code of a cause of the command's row. -/
theorem eachCommandRaisesOnlyItsCause : Obligations.EachCommandRaisesOnlyItsCause := by
  intro i s t noError hwf hexec
  have hcode : t.errCause ∈ 0 :: (admittedCauses i).map Cause.code := by
    obtain ⟨hcause, -⟩ | ⟨c, hc, he⟩ := exec_error_cases hexec
    · exact List.mem_cons.mpr (.inl (hcause.trans noError))
    · exact List.mem_cons_of_mem _ (he.errCause ▸ List.mem_map_of_mem (mem_causes_of_canRaise hwf hc))
  cases i <;> exact hcode

/-! ## BAD_REFERENCE (R92, R193) -/

/-- A correction of -10^9 ppb or lower, or a reference of 0, leaves nothing to divide by, in both modes. -/
theorem correctRef_nonpos (mode : CorrMode) {ref corr : Int} (href : 0 ≤ ref)
    (h : ref = 0 ∨ corr ≤ -1000000000) : correctRef mode ref corr ≤ 0 := by
  cases mode with
  | exactRational =>
    have hq : ref * corr ≤ -1000000000 * ref := by
      obtain rfl | h := h
      · simp
      · nlinarith
    rw [correctRef, roundHalfAway_ppb]
    split <;> omega
  | fixed31 =>
    have hq : (corr * 2 ^ 31).tdiv 1000000000 * ref ≤ -2 ^ 31 * ref := by
      obtain rfl | h := h
      · simp
      · have hf : 2 ^ 31 ≤ (-corr * 2 ^ 31).tdiv 1000000000 := by
          rw [Int.tdiv_eq_ediv_of_nonneg (by omega)]
          omega
        rw [neg_mul, Int.neg_tdiv] at hf
        exact mul_le_mul_of_nonneg_right (by omega) href
    rw [correctRef]
    omega

/-- Only the two PLL calculations have BAD_REFERENCE in their script. -/
theorem eq_pll_of_canRaise_badReference {i : Instr} {s : State} (h : (script i s).CanRaise .badReference) :
    i = .pllCalc ∨ i = .pllCalcVcxo := by
  by_cases hwf : i.WellFormed
  · have hmem := mem_causes_of_canRaise hwf h
    cases i with
    | pllCalc => exact .inl rfl
    | pllCalcVcxo => exact .inr rfl
    | _ => simp [admittedCauses] at hmem
  · rw [script_of_illFormed hwf] at h
    cases h

/-- Settles O54: the PLL calculations share one script, which raises the error where `correctRef` is not positive. -/
theorem badReferenceCases : Obligations.BadReferenceCases := by
  intro i s t noError hexec
  refine ⟨fun hraised => ?_, fun hi hbad => ?_⟩
  · obtain ⟨hcause, -⟩ | ⟨c, hc, he⟩ := exec_error_cases hexec
    · rw [hcause, noError] at hraised
      cases hraised
    · have hcode : c.code = 2 := he.errCause.symm.trans hraised
      obtain rfl : c = .badReference := by revert hcode; cases c <;> decide
      exact eq_pll_of_canRaise_badReference hc
  · have href : s.correctedRef ≤ 0 := by
      refine correctRef_nonpos _ (Int.natCast_nonneg _) ?_
      rw [corr_eq_setWidth]
      exact hbad.imp_left fun h => by simp [State.ux, h]
    have hturn : exec i s = .next (enterError .badReference s) := by
      obtain rfl | rfl := hi <;> exact pllTurn_of_nonpos rfl href _
    cases hexec.symm.trans hturn
    rfl

end Sys2Proof.Machine
end

section
/-! PROOFS. The log of errors: what each step adds to it, and that a run that ends with the log it began with raised
no error on the way (R199). -/

namespace Sys2Proof.Machine

/-! ## One step -/

/-- From `s` to `t` no error was raised; one that was pending may have been cleared. -/
abbrev RaisesNothing (s t : State) : Prop :=
  t.errorLog = s.errorLog ∧ (t.errCause = s.errCause ∨ t.errCause = 0)

theorem HostMove.raisesNothing {s t : State} (h : HostMove s t) : RaisesNothing s t := by
  cases h with
  | observes host reads => exact ⟨rfl, .inl rfl⟩
  | commands host w => exact ⟨rfl, .inl rfl⟩
  | clears host => exact ⟨rfl, .inr rfl⟩
  | sets host r v => exact ⟨rfl, .inl rfl⟩
  | resets rest => exact ⟨resetEngine_errorLog _, .inr rfl⟩

/-- Only a turn of the engine raises an error, and it ends the command with it. -/
theorem step_error_cases {s t : State} (h : step s = .next t) :
    RaisesNothing s t ∨ (s.busy = true ∧ ∃ c, ErrorEntered c s t) := by
  obtain ⟨hbusy, rfl⟩ | hmove | hmove := step_next_cases h
  · obtain ⟨hcause, hlog⟩ | ⟨c, -, he⟩ := run_error_cases (turnScript s.beginEngineTurn) s.beginEngineTurn
    · exact .inl ⟨hlog, .inl hcause⟩
    · exact .inr ⟨hbusy, c, he.errCause, he.errCmd, he.errorLog, he.regs, he.flight, he.ci⟩
  · exact .inl hmove.raisesNothing
  · exact .inl hmove.raisesNothing

/-! ## Runs -/

theorem run_errorLog_grows {n : Nat} {s t : State} (h : core.run n s = .next t) :
    ∃ errors, t.errorLog = s.errorLog ++ errors := by
  induction n generalizing s with
  | zero => cases h; exact ⟨[], (List.append_nil _).symm⟩
  | succ n ih =>
    obtain ⟨u, hstep, hrest⟩ := run_succ_cases n s t h
    obtain ⟨-, -, -, errors, hu⟩ := parametersFixedAndRecordsGrow s u hstep
    obtain ⟨later, ht⟩ := ih hrest
    exact ⟨errors ++ later, by rw [ht, hu, List.append_assoc]⟩

/-- A run that adds nothing to the log passes through no state with an error pending or a longer log. -/
theorem run_without_error {n : Nat} {s t : State} (hrun : core.run n s = .next t) (noError : s.errCause = 0)
    (hlog : t.errorLog = s.errorLog) :
    ∀ m ≤ n, ∃ u, core.run m s = .next u ∧ u.errCause = 0 ∧ u.errorLog = s.errorLog := by
  induction n generalizing s with
  | zero => intro m hm; obtain rfl := Nat.le_zero.mp hm; exact ⟨s, rfl, noError, rfl⟩
  | succ n ih =>
    obtain ⟨u, hstep, hrest⟩ := run_succ_cases n s t hrun
    obtain ⟨hu, hcause⟩ | ⟨-, c, he⟩ := step_error_cases hstep
    · have hclean : u.errCause = 0 := hcause.elim (·.trans noError) id
      rintro (_ | m) hm
      · exact ⟨s, rfl, noError, rfl⟩
      · rw [run_succ_next m s u hstep, ← hu]
        exact ih hrest hclean (hlog.trans hu.symm) m (Nat.le_of_succ_le_succ hm)
    · obtain ⟨later, ht⟩ := run_errorLog_grows hrest
      have hlonger := congrArg List.length (hlog.symm.trans ht)
      simp [he.errorLog] at hlonger

/-- Settles O60: the error entries are all that the log records, and nothing takes one out again. -/
theorem safeRunRaisedNoError : Obligations.SafeRunRaisedNoError := by
  refine ⟨fun s t hstep => ?_, fun launch t n ⟨⟨_, noError⟩, hrun, _, _, hlog⟩ => ?_⟩
  · refine (step_error_cases hstep).imp_right fun ⟨hbusy, c, he⟩ => ?_
    refine ⟨hbusy, by simp [State.busy, he.flight], ?_, he.errCmd, ?_⟩
    · rw [he.errCause]; exact (Safety.code_legal c).2
    · rw [he.errCause]; exact he.errorLog
  · exact run_without_error hrun noError hlog

end Sys2Proof.Machine
end

section
/-! PROOFS. A failed transaction is the last of its command and ends it with TRANSPORT, whatever completed before it
(R55, R192, R196). -/

namespace Sys2Proof.Machine

/-! ## A command that ends in a failed transaction -/

/-- The command has ended with TRANSPORT, and these were its transactions, the last of them the one that failed. -/
def State.failedWith (s : State) (xs : List Transaction) : State :=
  { s.completedWith xs with
    errCause := 4
    errCmd := s.cmd
    errorLog := s.errorLog ++ [⟨4, s.cmd⟩] }

theorem transactionFailed_eq_failedWith (r : Request) (s : State) :
    transactionFailed r s.dropReply = s.failedWith [⟨r, .failed⟩] := by
  simp [State.failedWith, State.completedWith, transactionFailed, enterError, completeCommand, State.dropReply,
    Cause.code, Memory.settle]

theorem failedWith_cons_read (s : State) (a : Nat) (b : Byte) (xs : List Transaction) :
    s.failedWith (⟨.readByte a, .byte b⟩ :: xs) = (readCompleted a b s.dropReply).failedWith xs := by
  rw [State.failedWith, completedWith_cons_read]; rfl

theorem failedWith_cons_write (s : State) (r : Request) (xs : List Transaction) :
    s.failedWith (⟨r, .done⟩ :: xs) = (writeCompleted r s.dropReply).failedWith xs := by
  rw [State.failedWith, completedWith_cons_write]; rfl

/-- None of these transactions failed. -/
abbrev NoneFailed (xs : List Transaction) : Prop := ∀ x ∈ xs, x.outcome ≠ .failed

/-- From `s` to `t` no transaction failed, or the last one did and ended the command. -/
def FailsOnlyLast (s t : State) : Prop :=
  (∃ new, t.trace = s.trace ++ new ∧ NoneFailed new) ∨
    ∃ done r, t = s.failedWith (done ++ [⟨r, .failed⟩]) ∧ NoneFailed done

/-- A transaction that has completed before changes nothing of that. -/
theorem FailsOnlyLast.cons {s u t : State} {x : Transaction} (h : FailsOnlyLast u t) (hx : x.outcome ≠ .failed)
    (htrace : u.trace = s.trace ++ [x]) (hfailed : ∀ xs, s.failedWith (x :: xs) = u.failedWith xs) :
    FailsOnlyLast s t := by
  obtain ⟨new, hnew, hnone⟩ | ⟨done, r, rfl, hnone⟩ := h
  · exact .inl ⟨x :: new, by rw [hnew, htrace, List.append_assoc]; rfl, List.forall_mem_cons.mpr ⟨hx, hnone⟩⟩
  · exact .inr ⟨x :: done, r, (hfailed _).symm, List.forall_mem_cons.mpr ⟨hx, hnone⟩⟩

theorem failsOnlyLast_of_transactionFailed (r : Request) (s : State) :
    FailsOnlyLast s (transactionFailed r s.dropReply) :=
  .inr ⟨[], r, transactionFailed_eq_failedWith r s, nofun⟩

theorem failsOnlyLast_of_trace {s t : State} (h : t.trace = s.trace) : FailsOnlyLast s t :=
  .inl ⟨[], by rw [h, List.append_nil], nofun⟩

theorem run_failsOnlyLast (p : Script) (s : State) : FailsOnlyLast s (p.run s) := by
  induction p generalizing s with
  | finish ws => exact failsOnlyLast_of_trace (by simp)
  | raise c => exact failsOnlyLast_of_trace rfl
  | readByte a k ih =>
    simp only [Script.run]
    split
    · exact (ih _ _).cons (by nofun) (readCompleted_trace ..) (failedWith_cons_read s a _)
    · exact failsOnlyLast_of_transactionFailed _ s
    · exact failsOnlyLast_of_trace rfl
  | writeByte a v k ih =>
    simp only [Script.run]
    split
    · exact (ih _).cons (by nofun) (writeCompleted_trace ..) (failedWith_cons_write s _)
    · exact failsOnlyLast_of_transactionFailed _ s
    · exact failsOnlyLast_of_trace rfl
  | writeBulk a bs k ih =>
    simp only [Script.run]
    split
    · exact (ih _).cons (by nofun) (writeCompleted_trace ..) (failedWith_cons_write s _)
    · exact failsOnlyLast_of_transactionFailed _ s
    · exact failsOnlyLast_of_trace rfl

/-- An entry of `xs ++ [y]` that none of `xs` can be is the `y` at the end. -/
theorem eq_last_of_not_mem {α : Type*} {xs before later : List α} {x y : α}
    (h : before ++ x :: later = xs ++ [y]) (hx : x ∉ xs) : before = xs ∧ x = y ∧ later = [] := by
  obtain rfl | ⟨l, z, rfl⟩ := List.eq_nil_or_concat later
  · obtain ⟨hbefore, hlast⟩ := List.append_inj' h rfl
    exact ⟨hbefore, List.singleton_inj.mp hlast, rfl⟩
  · rw [List.concat_eq_append, ← List.cons_append, ← List.append_assoc] at h
    obtain ⟨rfl, -⟩ := List.append_inj' h rfl
    simp at hx

/-- A command with a failed transaction on the record has ended in it. -/
theorem exec_of_failed {i : Instr} {s t : State} {done later : List Transaction} {r : Request}
    (hexec : exec i s = .next t) (htrace : t.trace = s.trace ++ done ++ ⟨r, .failed⟩ :: later) :
    t = s.failedWith (done ++ [⟨r, .failed⟩]) ∧ later = [] ∧ NoneFailed done := by
  rw [exec_eq] at hexec
  cases hexec
  rw [List.append_assoc] at htrace
  obtain ⟨new, hnew, hnone⟩ | ⟨done', r', hrun, hnone⟩ :=
    run_failsOnlyLast ((script i s).resume s.currentFlight) s
  · obtain rfl := List.append_cancel_left (htrace.symm.trans hnew)
    exact absurd rfl (hnone ⟨r, .failed⟩ (by simp))
  · have hlast : done ++ ⟨r, .failed⟩ :: later = done' ++ [⟨r', .failed⟩] :=
      List.append_cancel_left (htrace.symm.trans (congrArg State.trace hrun))
    obtain ⟨rfl, hr, rfl⟩ := eq_last_of_not_mem hlast fun hmem => hnone _ hmem rfl
    exact ⟨hr ▸ hrun, rfl, hnone⟩

/-! ## The device bytes -/

/-- What is known of the device once these transactions have completed. -/
abbrev Memory.store (m : Memory) (xs : List Transaction) : Memory :=
  xs.foldl (fun m x => m.writeBytes x.request.addr x.request.payload) m

theorem foldl_settle_of_noneFailed {xs : List Transaction} (h : NoneFailed xs) (m : Memory) :
    xs.foldl Memory.settle m = Memory.store m xs :=
  List.foldl_ext _ _ m fun _ x hx => if_neg (h x hx)

theorem failedWith_written (s : State) {done : List Transaction} (h : NoneFailed done) (r : Request) :
    (s.failedWith (done ++ [⟨r, .failed⟩])).written =
      (Memory.store s.written done).forgetRange r.addr r.payload.length := by
  rw [← foldl_settle_of_noneFailed h]
  exact List.foldl_append

/-- The end in a failed transaction, field by field. -/
theorem failedWith_eq (s : State) {done : List Transaction} (h : NoneFailed done) (r : Request) {k : Nat}
    (hlength : done.length = k) :
    s.failedWith (done ++ [⟨r, .failed⟩]) =
      { s with
        flight := none
        ci := s.ci + 1
        errCause := 4
        errCmd := s.cmd
        errorLog := s.errorLog ++ [⟨4, s.cmd⟩]
        replies := s.replies.drop (k + 1)
        draws := s.draws + (k + 1)
        trace := s.trace ++ done ++ [⟨r, .failed⟩]
        written := (Memory.store s.written done).forgetRange r.addr r.payload.length } := by
  rw [← failedWith_written s h r]
  simp [State.failedWith, State.completedWith, hlength]

/-! ## The transactions of a command in order (R225) -/

/-- Where a transaction writes: its address and the number of bytes it writes there, 0 for a read. -/
def Request.extent (r : Request) : Nat × Nat := (r.addr, r.payload.length)

/-- The script issues transactions at these places in this order, whatever bytes its reads return. -/
inductive Script.Issues : Script → List (Nat × Nat) → Prop
  | finish (ws) : Issues (.finish ws) []
  | raise (c) : Issues (.raise c) []
  | readByte {a k plan} (rest : ∀ b, (k b).Issues plan) : Issues (.readByte a k) ((a, 0) :: plan)
  | writeByte {a v k plan} (rest : k.Issues plan) : Issues (.writeByte a v k) ((a, 1) :: plan)
  | writeBulk {a bs k plan} (some_bytes : bs ≠ []) (rest : k.Issues plan) :
      Issues (.writeBulk a bs k) ((a, bs.length) :: plan)

/-- The transactions R225 lists for a command. -/
def transactionPlan (i : Instr) : List (Nat × Nat) :=
  match i with
  | .nop | .pllCalc | .pllCalcVcxo | .msCalc | .ms67Calc | .rdivSel | .rdiv67Sel => []
  | .packPll p => [(pllBase p, 8)]
  | .packMs ch => [(msBase ch + 2, 0), (msBase ch, 8)]
  | .packMs67 ch => [(90 + (ch.val - 6), 1)]
  | .msctlWr ch =>
    if ch.val ≤ 5 then [(ctlByteAddr ch, 0), (ctlByteAddr ch, 1), (16 + ch.val, 0), (16 + ch.val, 1)]
    else [(92, 0), (92, 1)]
  | .fieldWr f ch _ => [((fieldTable f ch).addr, 0), ((fieldTable f ch).addr, 1)]
  | .pllRst _ _ => [(177, 1)]
  | .packVcxo => [(162, 3)]
  | .statusRd => [(0, 0), (1, 0)]

theorem pllScript_issues (rf : PllResult → Int) (s : State) : (pllScript rf s).Issues [] := by
  unfold pllScript
  dsimp only
  split
  · exact .raise _
  · exact .finish _

theorem scriptMsCalc_issues (s : State) : (scriptMsCalc s).Issues [] := by
  unfold scriptMsCalc
  split
  · exact .raise _
  · exact .finish _

/-- A byte read and then written. -/
theorem issues_readByte_writeByte {a : Nat} {f : Byte → Byte} {k : Byte → Script} {plan : List (Nat × Nat)}
    (hk : ∀ v, (k v).Issues plan) :
    (Script.readByte a fun v => .writeByte a (f v) (k v)).Issues ((a, 0) :: (a, 1) :: plan) :=
  .readByte fun v => .writeByte (hk v)

theorem script_issues {i : Instr} (hwf : i.WellFormed) (s : State) : (script i s).Issues (transactionPlan i) := by
  cases i with
  | nop | ms67Calc | rdivSel | rdiv67Sel => exact .finish _
  | pllCalc => rw [script, scriptPllCalc]; exact pllScript_issues _ s
  | pllCalcVcxo => rw [script, scriptPllCalcVcxo]; exact pllScript_issues _ s
  | msCalc => exact scriptMsCalc_issues s
  | packPll p => exact .writeBulk (by simp [dividerBytes]) (.finish _)
  | packMs ch =>
    rw [script, scriptPackMs, whenLegal_of_legal hwf]
    exact .readByte fun v => .writeBulk (by simp [dividerBytes]) (.finish _)
  | packMs67 ch => rw [script, scriptPackMs67, whenLegal_of_legal hwf]; exact .writeByte (.finish _)
  | msctlWr ch =>
    simp only [script, scriptMsctlWr, transactionPlan]
    split_ifs
    · exact issues_readByte_writeByte fun _ => issues_readByte_writeByte fun _ => .finish _
    · exact issues_readByte_writeByte fun _ => .finish _
    · exact issues_readByte_writeByte fun _ => .finish _
  | fieldWr f ch imm =>
    rw [script, scriptFieldWr, whenLegal_of_legal hwf]
    exact issues_readByte_writeByte fun _ => .finish _
  | pllRst resetA resetB => rw [script, scriptPllRst, whenLegal_of_legal hwf]; exact .writeByte (.finish _)
  | packVcxo => exact .writeBulk (by simp [vcxoBytes]) (.finish _)
  | statusRd => exact .readByte fun _ => .readByte fun _ => .finish _

/-! ## A failure after answered calls -/

/-- These transactions lie at the places of the plan and completed with the port's first replies. -/
structure AnsweredBy (s : State) (plan : List (Nat × Nat)) (done : List Transaction) : Prop where
  extents : done.map (fun x => x.request.extent) = plan
  outcomes : ∀ j x, done[j]? = some x → ∃ b, s.replyAt j = .returns b ∧
    x.outcome = if x.request.payload = [] then .byte b else .done

theorem AnsweredBy.nil (s : State) : AnsweredBy s [] [] := ⟨rfl, nofun⟩

theorem AnsweredBy.cons {s u : State} {plan : List (Nat × Nat)} {done : List Transaction} {b : Byte}
    {q : Request} {o : PortOutcome} (h : AnsweredBy u plan done) (hreplies : ∀ j, u.replyAt j = s.replyAt (j + 1))
    (hb : s.replyAt 0 = .returns b) (ho : o = if q.payload = [] then .byte b else .done) :
    AnsweredBy s (q.extent :: plan) (⟨q, o⟩ :: done) where
  extents := congrArg _ h.extents
  outcomes
  | 0, _, hy => by cases hy; exact ⟨b, hb, ho⟩
  | j + 1, y, hy => hreplies j ▸ h.outcomes j y hy

theorem AnsweredBy.length_eq {s : State} {plan : List (Nat × Nat)} {k : Nat} {e : Nat × Nat}
    {done : List Transaction} (h : AnsweredBy s (plan.take k) done) (he : plan[k]? = some e) : done.length = k := by
  obtain ⟨hk, -⟩ := List.getElem?_eq_some_iff.mp he
  have hlength := congrArg List.length h.extents
  rwa [List.length_map, List.length_take_of_le hk.le] at hlength

theorem AnsweredBy.noneFailed {s : State} {plan : List (Nat × Nat)} {done : List Transaction}
    (h : AnsweredBy s plan done) : NoneFailed done := by
  intro x hx
  obtain ⟨j, hj⟩ := List.mem_iff_getElem?.mp hx
  obtain ⟨b, -, hout⟩ := h.outcomes j x hj
  rw [hout]
  split <;> nofun

/-- Run from `s`, the script completes transactions at these places and ends in a failed one at `e`. -/
def Script.FailsAfter (p : Script) (s : State) (plan : List (Nat × Nat)) (e : Nat × Nat) : Prop :=
  ∃ done r, p.run s = s.failedWith (done ++ [⟨r, .failed⟩]) ∧ AnsweredBy s plan done ∧ r.extent = e

theorem failsAfter_first {p : Script} {r : Request} {s : State} (hp : p.request = some r)
    (hfails : s.replyAt 0 = .fails) : p.FailsAfter s [] r.extent :=
  ⟨[], r, (run_fails p r s hp hfails).trans (transactionFailed_eq_failedWith r s), .nil s, rfl⟩

theorem Script.FailsAfter.read {a : Nat} {k : Byte → Script} {s : State} {b : Byte} {plan : List (Nat × Nat)}
    {e : Nat × Nat} (hb : s.replyAt 0 = .returns b) (h : (k b).FailsAfter (readCompleted a b s.dropReply) plan e) :
    (Script.readByte a k).FailsAfter s ((a, 0) :: plan) e := by
  obtain ⟨done, r, hrun, hdone, hr⟩ := h
  refine ⟨⟨.readByte a, .byte b⟩ :: done, r, ?_, .cons (q := .readByte a) hdone (by simp) hb rfl, hr⟩
  rw [run_readByte_returns a k s b hb, hrun, List.cons_append, failedWith_cons_read]

theorem Script.FailsAfter.write {p q : Script} {w : Request} {s : State} {b : Byte} {plan : List (Nat × Nat)}
    {e : Nat × Nat} (hb : s.replyAt 0 = .returns b) (hp : p.run s = q.run (writeCompleted w s.dropReply))
    (hw : w.payload ≠ []) (h : q.FailsAfter (writeCompleted w s.dropReply) plan e) :
    p.FailsAfter s (w.extent :: plan) e := by
  obtain ⟨done, r, hrun, hdone, hr⟩ := h
  refine ⟨⟨w, .done⟩ :: done, r, ?_, hdone.cons (by simp) hb (if_neg hw).symm, hr⟩
  rw [hp, hrun, List.cons_append, failedWith_cons_write]

/-- Where the port returns for the first `k` transactions of the plan and fails for the next, the script ends. -/
theorem Script.Issues.failsAfter {p : Script} {plan : List (Nat × Nat)} (hp : p.Issues plan) {s : State} {k : Nat}
    {e : Nat × Nat} (he : plan[k]? = some e) (hreturns : ∀ j < k, ∃ b, s.replyAt j = .returns b)
    (hfails : s.replyAt k = .fails) : p.FailsAfter s (plan.take k) e := by
  induction hp generalizing s k with
  | finish ws => cases he
  | raise c => cases he
  | readByte rest ih =>
    cases k with
    | zero => cases he; exact failsAfter_first (r := .readByte _) rfl hfails
    | succ k =>
      obtain ⟨b, hb⟩ := hreturns 0 k.succ_pos
      refine .read hb (ih b he (fun j hj => ?_) (by simpa using hfails))
      simpa using hreturns (j + 1) (Nat.succ_lt_succ hj)
  | writeByte rest ih =>
    cases k with
    | zero => cases he; exact failsAfter_first (r := .writeByte _ _) rfl hfails
    | succ k =>
      obtain ⟨b, hb⟩ := hreturns 0 k.succ_pos
      refine .write hb (run_writeByte_returns _ _ _ s b hb) (by nofun) (ih he (fun j hj => ?_) (by simpa using hfails))
      simpa using hreturns (j + 1) (Nat.succ_lt_succ hj)
  | writeBulk some_bytes rest ih =>
    cases k with
    | zero => cases he; exact failsAfter_first (r := .writeBulk _ _) rfl hfails
    | succ k =>
      obtain ⟨b, hb⟩ := hreturns 0 k.succ_pos
      refine .write hb (run_writeBulk_returns _ _ _ s b hb) some_bytes (ih he (fun j hj => ?_) (by simpa using hfails))
      simpa using hreturns (j + 1) (Nat.succ_lt_succ hj)

/-! ## No byte is written twice -/

/-- The two places share no byte. -/
def Apart (x y : Nat × Nat) : Prop := x.1 + x.2 ≤ y.1 ∨ y.1 + y.2 ≤ x.1 ∨ x.2 = 0 ∨ y.2 = 0

theorem Apart.not_covers {r q : Request} (h : Apart r.extent q.extent) {a : Nat} (ha : r.Covers a) :
    ¬ q.Covers a := by
  simp only [Apart, Request.extent, Request.Covers] at h ha ⊢
  omega

/-- Each command writes a device byte at most once (R49, R225). -/
theorem transactionPlan_apart (i : Instr) : (transactionPlan i).Pairwise Apart := by
  cases i with
  | msctlWr ch =>
    simp only [transactionPlan]
    split_ifs
    · simp [Apart, ctlByteAddr]; omega
    · simp [Apart]
  | _ => simp [transactionPlan, Apart]

/-- Of transactions that share no byte, each completed write leaves its bytes known. -/
theorem Memory.read_foldl_settle_of_apart {xs : List Transaction} {m : Memory} (hm : m.wf)
    (hapart : xs.Pairwise fun x y => Apart x.request.extent y.request.extent) {x : Transaction} (hx : x ∈ xs)
    (hdone : x.outcome ≠ .failed) {j : Nat} {b : Byte} (hb : x.request.payload[j]? = some b) :
    (xs.foldl Memory.settle m).read (x.request.addr + j) = some b := by
  induction xs generalizing m with
  | nil => cases hx
  | cons y ys ih =>
    obtain ⟨hy, hys⟩ := List.pairwise_cons.mp hapart
    obtain rfl | hx := List.mem_cons.mp hx
    · obtain ⟨hj, -⟩ := List.getElem?_eq_some_iff.mp hb
      have hcovers : x.request.Covers (x.request.addr + j) := ⟨Nat.le_add_right _ _, Nat.add_lt_add_left hj _⟩
      have hsettle : m.settle x = m.settle ⟨x.request, .done⟩ := if_neg hdone
      rw [List.foldl_cons, Memory.read_foldl_settle_of_not_covers (Memory.wf_settle hm x)
        fun z hz => (hy z hz).not_covers hcovers, hsettle]
      exact Memory.read_settle_done hm hb
    · exact ih (Memory.wf_settle hm y) hys hx

/-- The transactions answered so far and the next one share no byte. -/
theorem AnsweredBy.apart {i : Instr} {s : State} {k : Nat} {done : List Transaction} {x : Transaction}
    (h : AnsweredBy s ((transactionPlan i).take k) done) (hx : (transactionPlan i)[k]? = some x.request.extent) :
    (done ++ [x]).Pairwise fun x y => Apart x.request.extent y.request.extent := by
  have hextents : (done ++ [x]).map (fun x => x.request.extent) = (transactionPlan i).take (k + 1) := by
    rw [List.map_append, h.extents, List.take_add_one, hx]
    rfl
  refine List.pairwise_map.mp ?_
  rw [hextents]
  exact (transactionPlan_apart i).take

/-- Settles O31: a turn can only fail in its last transaction, and a legal command issues the transactions of its
plan, no two of which write the same byte. -/
theorem failedTransactionEndsTheCommand : Obligations.FailedTransactionEndsTheCommand := by
  unfold Obligations.FailedTransactionEndsTheCommand
  intro stored
  constructor
  · intro i s t done r later hexec htrace
    obtain ⟨rfl, hlater, hnone⟩ := exec_of_failed hexec htrace
    refine ⟨hlater, hnone, rfl, rfl, rfl, rfl, rfl, fun a => ?_⟩
    rw [failedWith_written s hnone, Memory.read_forgetRange]
  · intro i s k addr n hwf hfresh plan hk hreturns hfails
    have hplan : plan = transactionPlan i := by
      cases i with
      | packPll p => cases p <;> rfl
      | packMs67 ch => exact congrArg (fun a => [(a, 1)]) (packMs67_addr ch hwf).symm
      | _ => rfl
    clear_value plan
    subst hplan
    obtain ⟨done, r, hrun, hdone, hr⟩ := (script_issues hwf s).failsAfter hk hreturns hfails
    obtain ⟨rfl, rfl⟩ := Prod.mk.inj hr
    have hnone := hdone.noneFailed
    have hlength := hdone.length_eq hk
    refine ⟨_, done, r, (exec_starting i s hfresh).trans (congrArg _ hrun), hlength, hdone.extents, hdone.outcomes,
      rfl, rfl, failedWith_eq s hnone r hlength, fun a hlow hhigh => ?_,
      fun hm => ⟨fun x hx j b hb => ?_, fun a ha hothers => ?_⟩⟩
    · rw [failedWith_written s hnone, Memory.read_forgetRange]
      exact if_pos ⟨hlow, hhigh⟩
    · have hapart := hdone.apart (x := ⟨r, .failed⟩) hk
      exact Memory.read_foldl_settle_of_apart hm hapart (List.mem_append_left _ hx) (hnone x hx) hb
    · refine Memory.read_foldl_settle_of_not_covers hm fun x hx => ?_
      obtain hx | hx := List.mem_append.mp hx
      · exact hothers x hx
      · exact List.mem_singleton.mp hx ▸ ha

end Sys2Proof.Machine
end

section
/-! PROOFS. The host's duties (R224 H4 to H6), and what a reset does to the device (R215, R216). -/

namespace Sys2Proof.Machine

/-! ## Host actions without a move -/

/-- An offset that is none of the map's has no register (R32). -/
theorem hostReg_of_unlisted {offset : Nat} (hcontrol : offset ∉ [0x000, 0x008, 0x010, 0x018])
    (hengine : ∀ r : Reg, offset ≠ 0x080 + 8 * r.index) : hostReg offset = none := by
  simp only [List.mem_cons, List.not_mem_nil, or_false, not_or] at hcontrol
  obtain ⟨hcmd, hstatus, herrCause, herrCmd⟩ := hcontrol
  rw [hostReg, if_neg hcmd, if_neg hstatus, if_neg herrCause, if_neg herrCmd]
  split
  case isTrue haligned =>
    cases hr : Reg.ofIndex ((offset - 0x080) / 8) with
    | none => rfl
    | some r =>
      have hindex := Reg.index_of_ofIndex _ r hr
      exact absurd (by omega) (hengine r)
  case isFalse => rfl

theorem hostWrite_of_unlisted {offset : Nat} (h : hostReg offset = none) (v : Word) (s : State) :
    hostWrite offset v s = .refused .reservedOffset := by simp only [hostWrite, h]

theorem hostRead_of_unlisted {offset : Nat} (h : hostReg offset = none) (s : State) :
    hostRead offset s = .refused .reservedOffset := by simp only [hostRead, h]

theorem hostWrite_engine_of_busy (r : Reg) (v : Word) {s : State} (hbusy : s.busy = true) :
    hostWrite (0x080 + 8 * r.index) v s = .refused .registerWriteWhileBusy := by
  simp only [hostWrite, hostReg_engine, hbusy, if_true]

/-- Settles O14: BUSY refuses the writes to CMD and to the engine registers, the map every other offset. -/
theorem hostDutiesHaveNoMove : Obligations.HostDutiesHaveNoMove := by
  intro s hturn
  refine ⟨fun v rest hbusy hhost => ?_, fun r v rest hbusy hhost => ?_,
    fun offset v rest hcontrol hengine haccess => ?_⟩
  · rw [step_write hturn hhost, hostWrite_cmd, atHostTurn_busy, if_pos hbusy]
  · rw [step_write hturn hhost, hostWrite_engine_of_busy r v (by rwa [atHostTurn_busy])]
  · have hnone := hostReg_of_unlisted hcontrol hengine
    obtain hhost | hhost := haccess
    · rw [step_write hturn hhost, hostWrite_of_unlisted hnone]
    · rw [step_read hturn hhost, hostRead_of_unlisted hnone]

/-! ## The reset input -/

@[simp] theorem resetEngine_host (s : State) : (resetEngine s).host = s.host := by
  unfold resetEngine abandonTransaction; dsimp only; split <;> rfl

theorem step_reset {s : State} {rest : List HostAction} (hturn : s.busy = true → s.hostTurnsLeft ≠ 0)
    (hhost : s.host = .reset :: rest) : step s = .next (resetEngine (s.atHostTurn rest)) := by
  rw [step_of_host s hturn, hostTurn_reset _ rest (by split <;> exact hhost), State.atHostTurn]
  cases s.busy <;> rfl

/-- A reset with no transaction outstanding leaves the device and the record of transactions. -/
theorem resetEngine_of_none_outstanding {s : State} (h : s.currentFlight.outstanding = none) :
    (resetEngine s).trace = s.trace ∧ (resetEngine s).written = s.written := by
  simp [resetEngine, abandonTransaction, h]

/-- A reset with a transaction outstanding abandons it, its completion unknown (R55, R215). -/
theorem resetEngine_of_outstanding {s : State} {r : Request} (h : s.currentFlight.outstanding = some r) :
    (resetEngine s).trace = s.trace ++ [⟨r, .abandoned⟩] ∧
      (resetEngine s).written = s.written.forgetRange r.addr r.payload.length := by
  simp [resetEngine, abandonTransaction, h]

theorem none_outstanding_of_flight {s : State} (h : ∀ f, s.flight = some f → f.outstanding = none) :
    s.currentFlight.outstanding = none := by
  cases hf : s.flight with
  | none => simp [State.currentFlight, hf, Flight.fresh]
  | some f => rw [currentFlight_of_some s f hf, h f hf]

/-- Settles O18: only the transaction that is outstanding, if there is one, decides what becomes of the device. -/
theorem resetInputLeavesTheDevice : Obligations.ResetInputLeavesTheDevice := by
  intro s rest hhost hturn
  refine ⟨_, step_reset hturn hhost, zero_get, rfl, rfl, rfl, rfl, rfl, resetEngine_host _, resetEngine_cfg _,
    resetEngine_hostReads _, resetEngine_errorLog _, fun hnone => ?_, fun f r hf hr => ?_⟩
  · exact resetEngine_of_none_outstanding (s := s.atHostTurn rest) (none_outstanding_of_flight hnone)
  · have houtstanding : (s.atHostTurn rest).currentFlight.outstanding = some r :=
      (congrArg Flight.outstanding (currentFlight_of_some s f hf)).trans hr
    obtain ⟨htrace, hwritten⟩ := resetEngine_of_outstanding houtstanding
    refine ⟨htrace, fun a => ?_⟩
    rw [hwritten, Memory.read_forgetRange]
    rfl

end Sys2Proof.Machine
end

section
/-! PROOFS. While a command stays in progress CMD and the engine registers stand still (R59, R219). -/

namespace Sys2Proof.Machine

theorem flight_ne_none_of_busy {s : State} (h : s.busy = true) : s.flight ≠ none :=
  Option.isSome_iff_ne_none.mp h

/-- The host reaches CMD and the engine registers only with BUSY = 0 or by ending the command in a reset. -/
theorem HostMove.keeps_operands {s t : State} (h : HostMove s t) (hbefore : s.busy = true)
    (hafter : t.busy = true) : t.cmd = s.cmd ∧ t.regs = s.regs := by
  cases h with
  | observes host reads => exact ⟨rfl, rfl⟩
  | clears host => exact ⟨rfl, rfl⟩
  | commands host w idle => exact absurd idle (flight_ne_none_of_busy hbefore)
  | sets host r v idle => exact absurd idle (flight_ne_none_of_busy hbefore)
  | resets rest => cases hafter

/-- A turn of the engine writes registers only where it ends the command. -/
theorem run_keeps_operands (p : Script) {s : State} (hafter : (p.run s).busy = true) :
    (p.run s).cmd = s.cmd ∧ (p.run s).regs = s.regs := by
  refine ⟨(run_untouched p s).cmd, ?_⟩
  obtain ⟨hended, -⟩ | hwaits := run_ends p s
  · exact absurd hended (flight_ne_none_of_busy hafter)
  · exact hwaits.regs

/-- Settles O43: neither the engine's turn nor a move of the host reaches them while the command goes on. -/
theorem registersStandStillWhileBusy : Obligations.RegistersStandStillWhileBusy := by
  intro s t hstep hbefore hafter
  obtain ⟨-, rfl⟩ | hmove | hmove := step_next_cases hstep
  · exact run_keeps_operands _ hafter
  · exact hmove.keeps_operands hbefore hafter
  · exact hmove.keeps_operands (s := s.spendHostTurn) hbefore hafter

end Sys2Proof.Machine
end

section
/-! PROOFS. An answered command comes to its end (R225): a command issues at most four transactions, so four
answers end it in one turn of the engine, and each turn of the host brings that turn nearer. -/

namespace Sys2Proof.Machine

/-! ## The number of transactions -/

/-- Whatever bytes its reads return, the script issues at most `n` transactions. -/
def Script.IssuesAtMost (n : Nat) (p : Script) : Prop := ∃ plan, p.Issues plan ∧ plan.length ≤ n

theorem issuesAtMost_inherited (n : Nat) : Script.Inherited (Script.IssuesAtMost n) where
  readByte a k b h := by
    obtain ⟨_, ⟨⟩, hlength⟩ := h
    case readByte plan rest => exact ⟨plan, rest b, Nat.le_of_succ_le hlength⟩
  writeByte a v k h := by
    obtain ⟨_, ⟨⟩, hlength⟩ := h
    case writeByte plan rest => exact ⟨plan, rest, Nat.le_of_succ_le hlength⟩
  writeBulk a bs k h := by
    obtain ⟨_, ⟨⟩, hlength⟩ := h
    case writeBulk plan _ rest => exact ⟨plan, rest, Nat.le_of_succ_le hlength⟩

theorem transactionPlan_length (i : Instr) : (transactionPlan i).length ≤ 4 := by
  cases i with
  | msctlWr ch => simp only [transactionPlan]; split <;> simp
  | _ => simp [transactionPlan]

/-- The longest command, MSCTL_WR, issues four transactions; an ill-formed one issues none. -/
theorem script_issuesAtMost (i : Instr) (s : State) : (script i s).IssuesAtMost 4 := by
  by_cases hwf : i.WellFormed
  · exact ⟨transactionPlan i, script_issues hwf s, transactionPlan_length i⟩
  · rw [script_of_illFormed hwf]
    exact ⟨[], .raise _, by decide⟩

theorem turnScript_issuesAtMost (s : State) : (turnScript s).IssuesAtMost 4 := by
  cases h : decode (fetch s) with
  | ok i => rw [turnScript_of_ok h]; exact (issuesAtMost_inherited 4).resume (script_issuesAtMost i s) _
  | error e => rw [turnScript_of_error h]; exact ⟨[], .raise _, by decide⟩

/-! ## A turn of the engine -/

/-- The port returns for each of its next `n` calls. -/
abbrev Answers (s : State) (n : Nat) : Prop := ∀ k < n, ∃ b, s.replyAt k = .returns b

/-- From `s` to `t` at most `n` transactions ended; where the port answers that many calls none of them failed and
the command has ended. -/
def TurnWithin (n : Nat) (s t : State) : Prop :=
  ∃ new, t.trace = s.trace ++ new ∧ new.length ≤ n ∧ (Answers s n → EndedFrom s t ∧ NoneFailed new)

theorem TurnWithin.mono {m n : Nat} {s t : State} (h : TurnWithin m s t) (hle : m ≤ n) : TurnWithin n s t := by
  obtain ⟨new, htrace, hlength, hend⟩ := h
  exact ⟨new, htrace, hlength.trans hle, fun hanswers => hend fun k hk => hanswers k (hk.trans_le hle)⟩

/-- A transaction that has completed before is one more. -/
theorem TurnWithin.completed {n : Nat} {s u t : State} {x : Transaction} (h : TurnWithin n u t)
    (htrace : u.trace = s.trace ++ [x]) (hx : x.outcome ≠ .failed) (hci : u.ci = s.ci)
    (hreplies : ∀ k, u.replyAt k = s.replyAt (k + 1)) : TurnWithin (n + 1) s t := by
  obtain ⟨new, hnew, hlength, hend⟩ := h
  refine ⟨x :: new, by rw [hnew, htrace, List.append_assoc]; rfl, Nat.succ_le_succ hlength, fun hanswers => ?_⟩
  obtain ⟨⟨hflight, hcount⟩, hnone⟩ := hend fun k hk => hreplies k ▸ hanswers (k + 1) (Nat.succ_lt_succ hk)
  exact ⟨⟨hflight, hci ▸ hcount⟩, List.forall_mem_cons.mpr ⟨hx, hnone⟩⟩

/-- A call that fails or does not return is the last of its turn, so only an answered one is left to look at. -/
theorem turnWithin_of_request {p : Script} {r : Request} (hp : p.request = some r) {n : Nat} {s : State}
    (h : ∀ b, s.replyAt 0 = .returns b → TurnWithin (n + 1) s (p.run s)) : TurnWithin (n + 1) s (p.run s) := by
  cases hreply : s.replyAt 0 with
  | returns b => exact h b hreply
  | fails =>
    rw [run_fails p r s hp hreply]
    refine ⟨[⟨r, .failed⟩], transactionFailed_trace .., by simp, fun hanswers => ?_⟩
    simpa [hreply] using hanswers 0 n.succ_pos
  | silent =>
    rw [run_silent p r s hp hreply]
    refine ⟨[], by simp, by simp, fun hanswers => ?_⟩
    simpa [hreply] using hanswers 0 n.succ_pos

theorem Script.Issues.turnWithin {p : Script} {plan : List (Nat × Nat)} (hp : p.Issues plan) (s : State) :
    TurnWithin plan.length s (p.run s) := by
  induction hp generalizing s with
  | finish ws => exact ⟨[], by simp, le_rfl, fun _ => ⟨by simp [EndedFrom], nofun⟩⟩
  | raise c => exact ⟨[], by simp, le_rfl, fun _ => ⟨by simp [EndedFrom], nofun⟩⟩
  | readByte rest ih =>
    refine turnWithin_of_request (r := .readByte _) rfl fun b hb => ?_
    rw [run_readByte_returns _ _ s b hb]
    exact (ih b _).completed (readCompleted_trace ..) nofun (by simp) (by simp)
  | writeByte rest ih =>
    refine turnWithin_of_request (r := .writeByte _ _) rfl fun b hb => ?_
    rw [run_writeByte_returns _ _ _ s b hb]
    exact (ih _).completed (writeCompleted_trace ..) nofun (by simp) (by simp)
  | writeBulk some_bytes rest ih =>
    refine turnWithin_of_request (r := .writeBulk _ _) rfl fun b hb => ?_
    rw [run_writeBulk_returns _ _ _ s b hb]
    exact (ih _).completed (writeCompleted_trace ..) nofun (by simp) (by simp)

theorem Script.IssuesAtMost.turnWithin {p : Script} {n : Nat} (hp : p.IssuesAtMost n) (s : State) :
    TurnWithin n s (p.run s) := by
  obtain ⟨plan, hplan, hlength⟩ := hp
  exact (hplan.turnWithin s).mono hlength

/-- The engine's turn ends the command where the port answers four calls. -/
theorem step_ends {s : State} (hbusy : s.busy = true) (hturn : s.hostTurnsLeft = 0) (hanswers : Answers s 4) :
    ∃ t, step s = .next t ∧ EndedFrom s t ∧ t.host = s.host := by
  obtain ⟨f, hf⟩ := Option.isSome_iff_exists.mp hbusy
  obtain ⟨new, -, -, hend⟩ := (turnScript_issuesAtMost s.beginEngineTurn).turnWithin s.beginEngineTurn
  refine ⟨_, (step_engine s f hf hturn).trans (engineStep_eq_run _), (hend ?_).1, (run_untouched _ _).host⟩
  simpa only [Answers, beginEngineTurn_replyAt] using hanswers

/-! ## The turns of the host before it -/

/-- The command goes on, uncounted, and its next turn of the engine is one turn of the host nearer. -/
structure Nearer (s t : State) : Prop where
  busy : t.busy = true
  turns : t.hostTurnsLeft + 1 = s.hostTurnsLeft
  ci : t.ci = s.ci
  replies : ∀ k, t.replyAt k = s.replyAt k

theorem Nearer.answers {s t : State} {n : Nat} (h : Nearer s t) (hanswers : Answers s n) : Answers t n := by
  simpa only [Answers, h.replies] using hanswers

theorem spendHostTurn_nearer {s : State} (hbusy : s.busy = true) (hturn : s.hostTurnsLeft ≠ 0) :
    Nearer s s.spendHostTurn where
  busy := hbusy
  turns := by rw [spendHostTurn_hostTurnsLeft]; omega
  ci := rfl
  replies _ := rfl

/-- A turn of the host that it may take brings the end nearer, or is the reset that ends the command. -/
theorem HostMove.nearer {s t : State} (h : HostMove s.spendHostTurn t) (hbusy : s.busy = true)
    (hturn : s.hostTurnsLeft ≠ 0) : t.flight = none ∨ Nearer s t := by
  obtain ⟨busy, turns, ci, replies⟩ := spendHostTurn_nearer hbusy hturn
  cases h with
  | observes host reads => exact .inr ⟨busy, turns, ci, replies⟩
  | clears host => exact .inr ⟨busy, turns, ci, replies⟩
  | commands host w idle => exact absurd idle (flight_ne_none_of_busy busy)
  | sets host r v idle => exact absurd idle (flight_ne_none_of_busy busy)
  | resets rest => exact .inl rfl

theorem step_of_busy {s : State} (hbusy : s.busy = true) (hturn : s.hostTurnsLeft ≠ 0) :
    step s = hostTurn s.spendHostTurn := by
  rw [step_of_host s fun _ => hturn, if_pos hbusy]

theorem step_refused_or_nearer {s : State} (hbusy : s.busy = true) (hturn : s.hostTurnsLeft ≠ 0) :
    (∃ r, step s = .refused r) ∨ ∃ t, step s = .next t ∧ (t.flight = none ∨ Nearer s t) := by
  have hstep := step_of_busy hbusy hturn
  cases hmove : hostTurn s.spendHostTurn with
  | next t => exact .inr ⟨t, hstep.trans hmove, (hostTurn_move hmove).nearer hbusy hturn⟩
  | fault e => cases e
  | refused r => exact .inl ⟨r, hstep.trans hmove⟩

/-- A host that does nothing or waits for BUSY = 0 stays where it is in its list (R82, R217). -/
theorem step_of_waiting_host {s : State} (hbusy : s.busy = true) (hturn : s.hostTurnsLeft ≠ 0)
    (hhost : s.host = [] ∨ ∃ rest, s.host = .waitIdle :: rest) :
    ∃ t, step s = .next t ∧ Nearer s t ∧ t.host = s.host := by
  obtain ⟨busy, turns, ci, replies⟩ := spendHostTurn_nearer hbusy hturn
  have hstep := step_of_busy hbusy hturn
  obtain hnil | ⟨rest, hwait⟩ := hhost
  · exact ⟨_, hstep.trans (hostTurn_nil _ hnil), ⟨busy, turns, ci, replies⟩, rfl⟩
  · rw [hostTurn_wait s.spendHostTurn rest hwait, spendHostTurn_busy, if_pos hbusy] at hstep
    exact ⟨_, hstep.trans (hostRead_of_hostReg (r := .status) rfl _), ⟨busy, turns, ci, replies⟩, rfl⟩

/-! ## The end -/

theorem refused_or_ended {s : State} (hbusy : s.busy = true) (hanswers : Answers s 4) :
    (∃ r, core.run (s.hostTurnsLeft + 1) s = .refused r) ∨
      ∃ m ≤ s.hostTurnsLeft + 1, ∃ t, core.run m s = .next t ∧ t.flight = none := by
  induction hn : s.hostTurnsLeft generalizing s with
  | zero =>
    obtain ⟨t, hstep, ⟨hended, -⟩, -⟩ := step_ends hbusy hn hanswers
    exact .inr ⟨1, le_rfl, t, run_succ_next 0 s t hstep, hended⟩
  | succ n ih =>
    obtain ⟨r, hrefused⟩ | ⟨u, hstep, hended | hnearer⟩ := step_refused_or_nearer hbusy (by omega)
    · exact .inl ⟨r, run_succ_refused _ s r hrefused⟩
    · exact .inr ⟨1, by omega, u, run_succ_next 0 s u hstep, hended⟩
    · have hturns := hnearer.turns
      obtain ⟨r, hrefused⟩ | ⟨m, hm, t, hrun, hended⟩ := ih hnearer.busy (hnearer.answers hanswers) (by omega)
      · exact .inl ⟨r, by rw [run_succ_next _ s u hstep, hrefused]⟩
      · exact .inr ⟨m + 1, by omega, t, by rw [run_succ_next m s u hstep, hrun], hended⟩

theorem ended_of_waiting_host {s : State} (hbusy : s.busy = true) (hanswers : Answers s 4)
    (hhost : s.host = [] ∨ ∃ rest, s.host = .waitIdle :: rest) :
    ∃ t, core.run (s.hostTurnsLeft + 1) s = .next t ∧ EndedFrom s t ∧ t.host = s.host := by
  induction hn : s.hostTurnsLeft generalizing s with
  | zero =>
    obtain ⟨t, hstep, hended, hsame⟩ := step_ends hbusy hn hanswers
    exact ⟨t, run_succ_next 0 s t hstep, hended, hsame⟩
  | succ n ih =>
    obtain ⟨u, hstep, hnearer, hsame⟩ := step_of_waiting_host hbusy (by omega) hhost
    have hturns := hnearer.turns
    obtain ⟨t, hrun, ⟨hended, hci⟩, hlist⟩ :=
      ih hnearer.busy (hnearer.answers hanswers) (hsame ▸ hhost) (by omega)
    exact ⟨t, by rw [run_succ_next _ s u hstep, hrun], ⟨hended, by rw [hci, hnearer.ci]⟩, hlist.trans hsame⟩

/-- Settles O38: a turn of the engine issues at most four transactions and ends the command when they are answered;
by induction on the turns the host has left, that turn comes. -/
theorem answeredCommandCompletes : Obligations.AnsweredCommandCompletes := by
  refine ⟨fun i s hfresh => ?_, fun s hbusy hanswers => ⟨refused_or_ended hbusy hanswers, fun hhost => ?_⟩⟩
  · obtain ⟨new, htrace, hlength, hend⟩ := (script_issuesAtMost i s).turnWithin s
    refine ⟨_, new, exec_starting i s hfresh, htrace, hlength, fun hanswers => ?_⟩
    obtain ⟨⟨hended, hci⟩, hnone⟩ := hend hanswers
    exact ⟨by simp [State.busy, hended], hci, hnone⟩
  · obtain ⟨t, hrun, ⟨hended, hci⟩, hsame⟩ := ended_of_waiting_host hbusy hanswers hhost
    exact ⟨t, hrun, hended, hci, hsame⟩

end Sys2Proof.Machine
end

section
/-! PROOFS. The example encodings of R78, and DIV_ZERO: the PLLF for which MS_CALC would divide by 0 (R194). -/

namespace Sys2Proof.Machine

/-! ## The example encodings (R78) -/

/-- Settles O5: seven fixed words, each decoded by evaluation. -/
theorem exampleEncodingsDecode : Obligations.ExampleEncodingsDecode := by
  refine ⟨?_, ?_, ?_, ?_, ?_, ?_, ?_⟩ <;> decide

/-! ## DIV_ZERO (R112, R194) -/

theorem code_injective : Function.Injective Cause.code := by
  intro c d
  cases c <;> cases d <;> decide

/-- An error pending after a command that started without one is of a cause the command's script can raise. -/
theorem canRaise_of_errCause {i : Instr} {s t : State} {c : Cause} (noError : s.errCause = 0)
    (hexec : exec i s = .next t) (hraised : t.errCause = c.code) : (script i s).CanRaise c := by
  obtain ⟨hcause, -⟩ | ⟨d, hd, he⟩ := exec_error_cases hexec
  · exact absurd (hraised.symm.trans (hcause.trans noError)) (Safety.code_legal c).2
  · have hcode : d.code = c.code := he.errCause.symm.trans hraised
    exact code_injective hcode ▸ hd

/-- Only MS_CALC has DIV_ZERO in its script. -/
theorem eq_msCalc_of_canRaise_divZero {i : Instr} {s : State} (h : (script i s).CanRaise .divZero) :
    i = .msCalc := by
  by_cases hwf : i.WellFormed
  · have hmem := mem_causes_of_canRaise hwf h
    cases i with
    | msCalc => rfl
    | _ => simp [admittedCauses] at hmem
  · rw [script_of_illFormed hwf] at h
    cases h

theorem msFreq_bounds (freq : Nat) : 50000000 ≤ msFreq freq ∧ msFreq freq ≤ 22500000000 := by
  unfold msFreq; omega

/-- Only the frequency re-derived from a quotient below 6 can be 0: it is PLLF / 6. -/
theorem msLockedFreq_eq_zero_iff {pll f : Nat} (hf : 0 < f) : msLockedFreq pll f = 0 ↔ pll < 6 := by
  have hquotient : pll / f ≤ pll := Nat.div_le_self pll f
  unfold msLockedFreq
  split_ifs <;> omega

theorem msCalc_eq_none_iff {freq pll : Nat} : msCalc freq pll = none ↔ 0 < pll ∧ pll < 6 := by
  obtain ⟨hpos, -⟩ := msFreq_bounds freq
  have hzero : msLockedFreq pll (msFreq freq) = 0 ↔ pll < 6 := msLockedFreq_eq_zero_iff (by omega)
  obtain rfl | hlocked := Nat.eq_zero_or_pos pll
  · rw [Nat.cast_zero, msCalc_free]
    simp
  · by_cases hsmall : pll < 6
    · simp [msCalc_divZero hlocked.ne' (hzero.mpr hsmall), hlocked, hsmall]
    · simp [msCalc_locked hlocked.ne' rfl (mt hzero.mp hsmall), hsmall]

/-- Settles O53: a command with DIV_ZERO in its script is MS_CALC, which raises it where `msCalc` has no result. -/
theorem divZeroExactlyBelowSix : Obligations.DivZeroExactlyBelowSix := by
  intro i s t noError hexec
  by_cases hi : i = .msCalc
  · subst hi
    rw [← msCalc_eq_none_iff (freq := (s.x .freq).toNat)]
    cases hresult : msCalc (s.x .freq).toNat (s.x .pllf).toNat with
    | none =>
      cases hexec.symm.trans (exec_msCalc_of_none hresult)
      simp [Cause.code]
    | some r =>
      cases hexec.symm.trans (exec_msCalc_of_some hresult)
      simp [noError]
  · exact iff_of_false
      (fun hraised => hi (eq_msCalc_of_canRaise_divZero (canRaise_of_errCause (c := .divZero) noError hexec hraised)))
      (fun h => hi h.1)

end Sys2Proof.Machine
end

section
/-! PROOFS. The free mode of MS_CALC: the divider it chooses and the registers that hold the result (R111). -/

namespace Sys2Proof.Machine

/-- The clamped frequency divides VCO_MAX into 4 to 1800, and the quotients 5 and 7 are avoided: so divide-by-4 alone
gives 4, and the product stays in the VCO range. -/
theorem msFreeQuotient_bounds {f : Nat} (hlow : 50000000 ≤ f) (hhigh : f ≤ 22500000000) :
    (msFreeQuotient f = 4 ↔ 15000000000 ≤ f) ∧
      (msFreeQuotient f = 4 ∨ 6 ≤ msFreeQuotient f) ∧ msFreeQuotient f ≤ 1800 ∧
      60000000000 ≤ msFreeQuotient f * f ∧ msFreeQuotient f * f ≤ 90000000000 := by
  unfold msFreeQuotient
  by_cases hdiv : 15000000000 ≤ f
  · rw [if_pos hdiv]
    omega
  · have hle : 90000000000 / f * f ≤ 90000000000 := Nat.div_mul_le_self _ f
    have hgt : 90000000000 < 90000000000 / f * f + f := Nat.lt_div_mul_add (by omega)
    have hsix : 6 ≤ 90000000000 / f := (Nat.le_div_iff_mul_le (by omega)).mpr (by omega)
    have hmax : 90000000000 / f ≤ 1800 := Nat.div_le_of_le_mul (by omega)
    generalize 90000000000 / f = a at *
    rw [if_neg hdiv, if_neg (by omega : a ≠ 5)]
    by_cases hseven : a = 7
    · rw [if_pos hseven]
      subst hseven
      omega
    · rw [if_neg hseven]
      omega

/-- A register wide enough reads back the number written to it. -/
theorem toNat_regOf_natCast {w k n : Nat} (hk : k ≤ w) (hn : n < 2 ^ k) (h64 : n < 2 ^ 64) :
    (regOf w (n : Int)).toNat = n := by
  have hfits : n < 2 ^ w := hn.trans_le (Nat.pow_le_pow_right two_pos hk)
  exact_mod_cast toNat_regOf w n (Int.natCast_nonneg n) (by exact_mod_cast hfits) (by exact_mod_cast h64)

theorem regOf_one {w : Nat} (hw : 1 ≤ w) : regOf w 1 = 1 :=
  BitVec.eq_of_toNat_eq (toNat_regOf_natCast (n := 1) hw (by decide) (by decide))

theorem wroteMs_c (s : State) (r : MsResult) :
    (completeCommand (s.writeRegs (msWrites r))).x .c = regOf s.cfg.width r.c := rfl
theorem wroteMs_p2 (s : State) (r : MsResult) :
    (completeCommand (s.writeRegs (msWrites r))).x .p2 = regOf s.cfg.width r.fields.p2 := rfl
theorem wroteMs_p3 (s : State) (r : MsResult) :
    (completeCommand (s.writeRegs (msWrites r))).x .p3 = regOf s.cfg.width r.fields.p3 := rfl
theorem wroteMs_flags (s : State) (r : MsResult) :
    (completeCommand (s.writeRegs (msWrites r))).x .flags =
      regOf s.cfg.width (flagsWord true r.divBy4 r.divBy4 r.fields.ovf r.free).toNat := rfl

/-- With an integer divider the encoded fraction is 0/1, the divide-by-4 sentinel's among them. -/
theorem MsResult.fields_fraction (a rf : Int) (divBy4 free : Bool) :
    (MsResult.mk a 0 1 rf divBy4 free).fields.p2 = 0 ∧ (MsResult.mk a 0 1 rf divBy4 free).fields.p3 = 1 := by
  cases divBy4 <;> simp [MsResult.fields, encodeDivider_int]

/-- Settles O51: the bounds of the quotient, and every value fits its register. -/
theorem msFreeModeStaysInRange : Obligations.MsFreeModeStaysInRange := by
  intro s hwidth hpll
  obtain ⟨hfour, hrange, hmax, hrfLow, hrfHigh⟩ := (msFreq_bounds (s.x .freq).toNat).elim msFreeQuotient_bounds
  have hresult := msCalc_free (s.x .freq).toNat
  dsimp only at hresult
  generalize msFreq (s.x .freq).toNat = f at *
  generalize msFreeQuotient f = a at *
  have hexec : exec .msCalc s = _ := exec_msCalc_of_some (by rw [hpll]; exact hresult)
  obtain ⟨hp2, hp3⟩ := MsResult.fields_fraction a (a * f : Nat) (decide (15000000000 ≤ f)) true
  have hreg (n : Nat) (hn : n < 2 ^ 37) : (regOf s.cfg.width (n : Int)).toNat = n :=
    toNat_regOf_natCast hwidth hn (hn.trans (by decide))
  refine ⟨_, hexec, ?_⟩
  simp only [wroteMs_a, wroteMs_b, wroteMs_c, wroteMs_p2, wroteMs_p3, wroteMs_rf, wroteMs_flags, hp2, hp3,
    hreg a (by omega), hreg (a * f) (by omega), regOf_zero, regOf_one (by omega : 1 ≤ s.cfg.width),
    regOf_flagsWord (by omega : 5 ≤ s.cfg.width), (flagsWord_bits ..).2.1, decide_eq_true_eq]
  exact ⟨hrange.imp_right fun h => ⟨h, hmax⟩, hfour, trivial, trivial, trivial, trivial, hrfLow, hrfHigh⟩

end Sys2Proof.Machine
end

section
/-! PROOFS. A second run of the same R-divider selector: the scaled frequency lies outside every band (R135, R221). -/

namespace Sys2Proof.Machine

/-- Below the bands of `m` or above the last of them. -/
abbrev OutsideBands (m f : Nat) : Prop := f < m ∨ 128 * m ≤ f

theorem not_inBand_of_outside {m f j : Nat} (hj : j ≤ 6) (h : OutsideBands m f) : ¬ InBand m j f := by
  rintro ⟨hlow, hhigh⟩
  have hfirst : m ≤ m * 2 ^ j := Nat.le_mul_of_pos_right m (by positivity)
  have hlast : m * 2 ^ (j + 1) ≤ m * 2 ^ 7 := Nat.mul_le_mul_left m (Nat.pow_le_pow_right two_pos (by omega))
  omega

theorem inBand_or_outside (m f : Nat) : (∃ j ≤ 6, InBand m j f) ∨ OutsideBands m f := by
  by_cases hlow : f < m
  · exact .inr (.inl hlow)
  by_cases hhigh : f < m * 2 ^ 7
  · obtain ⟨j, hj, hband⟩ := exists_band (not_lt.mp hlow) hhigh
    exact .inl ⟨j, by omega, hband⟩
  · exact .inr (.inr (by omega))

/-- A selector scales FREQ out of the bands or leaves it there, and changes no parameter. -/
theorem outsideBands_of_exec {i : Instr} {m : Nat} {s t : State} (hi : SelectsBy i m s) (hsound : s.cfg.Sound)
    (hfreq : (s.x .freq).toNat < 2 ^ s.cfg.width) (hfits : 256 * m ≤ 2 ^ s.cfg.width) (hexec : exec i s = .next t) :
    OutsideBands m (t.x .freq).toNat ∧ (t.x .freq).toNat < 2 ^ t.cfg.width ∧ t.cfg = s.cfg := by
  obtain ⟨hband, hnone⟩ := rdivSelectorResults s i m hi
  obtain ⟨j, hj, hin⟩ | hout := inBand_or_outside m (s.x .freq).toNat
  · cases hexec.symm.trans (hband j hj hin.1 hin.2)
    obtain ⟨hscaledLow, hscaledHigh⟩ := scaled_inBand (by omega) hin
    have hreg : (s.x .freq).toNat * 2 ^ (7 - j) < 2 ^ s.cfg.width := by omega
    have hword : (BitVec.ofNat 64 ((s.x .freq).toNat * 2 ^ (7 - j) % 2 ^ s.cfg.width)).toNat =
        (s.x .freq).toNat * 2 ^ (7 - j) := by
      rw [Nat.mod_eq_of_lt hreg, BitVec.toNat_ofNat,
        Nat.mod_eq_of_lt (hreg.trans_le (Nat.pow_le_pow_right two_pos hsound.1))]
    exact ⟨.inr (hword.symm ▸ by omega), hword.symm ▸ hreg, rfl⟩
  · cases hexec.symm.trans (hnone hfreq fun j hj => not_inBand_of_outside hj hout)
    exact ⟨hout, hfreq, rfl⟩

/-- Settles O56: what the first run leaves is outside every band, where the second finds the code 0. -/
theorem secondRdivSelLosesTheCode : Obligations.SecondRdivSelLosesTheCode := by
  intro i s t m hi hsound hfreq hfits hexec
  obtain ⟨hout, hfreq', hcfg⟩ := outsideBands_of_exec hi hsound hfreq hfits hexec
  obtain ⟨-, hnone⟩ := rdivSelectorResults t i m (hcfg ▸ hi)
  exact ⟨hout, _, hnone hfreq' fun j hj => not_inBand_of_outside hj hout, rfl, rfl⟩

end Sys2Proof.Machine
end

section
/-! PROOFS. The PLL calculations: how close the divider comes to its target, what the results depend on, and how a
correction moves REFC (R91 to R95). -/

namespace Sys2Proof.Machine

/-! ## Accuracy (R92) -/

/-- The target a PLL calculation divides, re-derived where the quotient leaves 15 to 90 (R92). -/
def pllTarget (t refc : Int) : Int :=
  if t / refc < 15 then refc * 15 else if t / refc > 90 then refc * 90 else t

/-- The numerator of the fraction of a divider, in millionths (R92). -/
def pllNumerator (t refc : Int) : Int := t % refc * 1000000 / refc

theorem pllDivider_eq {target t refc : Int} (ht : max 60000000000 (min 90000000000 target) = t) :
    pllDivider target refc =
      let a := t / refc
      let b := pllNumerator (pllTarget t refc) refc
      let c := if b ≠ 0 then 1000000 else 1
      ⟨a, b, c, encodeDivider a b c, refc * a + refc * b / c, refc⟩ := by
  rw [pllDivider, clamp_eq_max_min _ _ _ (by decide)]
  subst ht
  rfl

/-- Truncating in millionths and in units loses less than a millionth of the reference and one unit. -/
theorem pllFraction_bounds {t refc : Int} (href : 0 < refc) :
    let b := pllNumerator t refc
    let r := refc * (t / refc) + refc * b / (if b ≠ 0 then 1000000 else 1)
    0 ≤ t - r ∧ 1000000 * (t - r) < refc + 1000000 := by
  intro b r
  have hdiv : refc * (t / refc) + t % refc = t := Int.mul_ediv_add_emod t refc
  have hb : refc * b + t % refc * 1000000 % refc = t % refc * 1000000 := Int.mul_ediv_add_emod _ refc
  have hlost : 0 ≤ t % refc * 1000000 % refc := Int.emod_nonneg _ href.ne'
  have hlt : t % refc * 1000000 % refc < refc := Int.emod_lt_of_pos _ href
  have hr : r = refc * (t / refc) + refc * b / 1000000 := by
    by_cases hzero : b = 0 <;> simp [r, hzero]
  generalize refc * b = x at *
  omega

/-- Settles O48: outside 15 to 90 the target is a multiple of the reference, so no fraction is left. -/
theorem pllCalcAccuracy : Obligations.PllCalcAccuracy := by
  intro target refc href t r
  have hr : r = _ := pllDivider_eq (target := target) (refc := refc) (t := t) rfl
  clear_value t r
  subst hr
  refine ⟨rfl, fun hlow hhigh => ?_, fun hout => ?_⟩
  · have htarget : pllTarget t refc = t := (if_neg (not_lt.mpr hlow)).trans (if_neg (not_lt.mpr hhigh))
    simpa only [htarget] using pllFraction_bounds href
  · have hmultiple : refc ∣ pllTarget t refc := by
      obtain hlow | hhigh := hout
      · exact Dvd.intro 15 (if_pos hlow).symm
      · exact Dvd.intro 90 ((if_neg (by dsimp only at hhigh; omega)).trans (if_pos hhigh)).symm
    have hb : pllNumerator (pllTarget t refc) refc = 0 := by
      rw [pllNumerator, Int.emod_eq_zero_of_dvd hmultiple, zero_mul, Int.zero_ediv]
    simp [hb]

/-! ## What the results depend on (R94) -/

/-- A register that is written, or that two states agree on, holds the same in both after the same writes. -/
theorem writeRegs_x_congr {s₁ s₂ : State} (hwidth : s₁.cfg.width = s₂.cfg.width) {ws : List (Reg × Int)} {n : Reg}
    (h : n ∈ ws.map Prod.fst ∨ s₁.x n = s₂.x n) : (s₁.writeRegs ws).x n = (s₂.writeRegs ws).x n := by
  induction ws generalizing s₁ s₂ with
  | nil => exact h.resolve_left List.not_mem_nil
  | cons w rest ih =>
    refine ih hwidth ?_
    rw [setX_x, setX_x, hwidth]
    by_cases hn : n = w.1
    · exact .inr (by rw [if_pos hn, if_pos hn])
    · rw [if_neg hn, if_neg hn]
      exact h.imp_left fun hmem => (List.mem_cons.mp hmem).resolve_left hn

/-- The registers a PLL calculation reads are the only ones that matter, CORR by its low half (R24). -/
theorem correctedRef_congr {s₁ s₂ : State} (href : s₁.x .ref = s₂.x .ref)
    (hcorr : (s₁.x .corr).extractLsb' 0 32 = (s₂.x .corr).extractLsb' 0 32)
    (hmode : s₁.cfg.corrMode = s₂.cfg.corrMode) : s₁.correctedRef = s₂.correctedRef := by
  simp only [State.correctedRef, State.ux, State.corr, href, hcorr, hmode]

/-- Either PLL command is a turn on one script, with an RF of its own. -/
theorem exists_pllTurn {i : Instr} (hi : i = .pllCalc ∨ i = .pllCalcVcxo) :
    ∃ rf : PllResult → Int, ∀ s, exec i s = engineTurn (pllScript rf s) s := by
  obtain rfl | rfl := hi <;> exact ⟨_, fun _ => rfl⟩

/-- Settles O49: both states have one corrected reference, so both raise the error or write the same values. -/
theorem pllCalcIsAFunctionOfItsOperands : Obligations.PllCalcIsAFunctionOfItsOperands := by
  intro i s₁ s₂ hi hpllf href hcorr hmode hwidth
  obtain ⟨rf, hexec⟩ := exists_pllTurn hi
  have hrefc : s₁.correctedRef = s₂.correctedRef := correctedRef_congr href hcorr hmode
  obtain ⟨result, hresult⟩ : ∃ result, pllDivider (s₂.ux .pllf) s₂.correctedRef = result := ⟨_, rfl⟩
  have hsame : pllDivider (s₁.ux .pllf) s₂.correctedRef = result := by rw [State.ux, hpllf]; exact hresult
  rw [hexec, hexec]
  obtain hbad | hgood := le_or_gt s₂.correctedRef 0
  · exact ⟨_, _, pllTurn_of_nonpos hrefc hbad rf, pllTurn_of_nonpos rfl hbad rf, .inr ⟨rfl, rfl, rfl, rfl⟩⟩
  · refine ⟨_, _, pllTurn_of_pos hrefc hgood hsame rf, pllTurn_of_pos rfl hgood hresult rf, .inl fun n hn => ?_⟩
    rw [completeCommand_x, completeCommand_x]
    exact writeRegs_x_congr hwidth (.inl hn)

/-! ## The corrected reference as a result (R91, R95) -/

theorem wrotePll_refc (s : State) (r : PllResult) (rf : Int) :
    (completeCommand (s.writeRegs (pllWrites r rf))).x .refc = regOf s.cfg.width r.refc := rfl

theorem pllCalc_refc {s t : State} {refc : Int} (href : s.correctedRef = refc) (hpos : 0 < refc)
    (hexec : exec .pllCalc s = .next t) : t.x .refc = regOf s.cfg.width refc := by
  cases hexec.symm.trans (pllTurn_of_pos href hpos rfl _)
  exact wrotePll_refc ..

/-- In the exact mode the correction adds its rounded share of the reference. -/
theorem correctedRef_of_exact {s : State} (hmode : s.cfg.corrMode = .exactRational) {corr : Nat}
    (hcorr : s.corr = corr) :
    s.correctedRef = ((s.x .ref).toNat + ((s.x .ref).toNat * corr + 500000000) / 1000000000 : Nat) := by
  have hshare : (0 : Int) ≤ (s.x .ref).toNat * corr := by positivity
  rw [State.correctedRef, hmode, hcorr, correctRef, roundHalfAway_ppb, State.ux, if_pos hshare]
  push_cast
  rfl

/-- Settles O50: without a correction REFC is REF, with 1000 ppb it is REF and the rounded share. -/
theorem correctionShiftsReferenceExactly : Obligations.CorrectionShiftsReferenceExactly := by
  intro s₁ s₂ t₁ t₂ hmode₁ hmode₂ _ href hcorr₁ hcorr₂ hwidth₁ hwidth₂ hpos hmax hexec₁ hexec₂
  have hrefc₁ := correctedRef_of_exact hmode₁ (corr := 0) (by rw [State.corr, hcorr₁]; rfl)
  have hrefc₂ := correctedRef_of_exact hmode₂ (corr := 1000) (by rw [State.corr, hcorr₂]; rfl)
  rw [← href] at hrefc₂
  generalize (s₁.x .ref).toNat = ref at *
  have hreg (n : Nat) (hn : n < 2 ^ 64) : (regOf 64 (n : Int)).toNat = n :=
    toNat_regOf_natCast le_rfl hn hn
  rw [pllCalc_refc hrefc₁ (by omega) hexec₁, pllCalc_refc hrefc₂ (by omega) hexec₂, hwidth₁, hwidth₂,
    hreg _ (by omega), hreg _ (by omega)]
  refine ⟨by omega, ?_⟩
  rintro ⟨k, rfl⟩
  omega

end Sys2Proof.Machine
end

section
/-! PROOFS. A call of the Register Port, said once for reads and writes: what is left of the script, and the state its
return leaves (R47, R53, R56). -/

namespace Sys2Proof.Machine

/-- What is left of a script once its first call has returned `b`. -/
def Script.rest : Script → Byte → Script
  | .readByte _ k, b => k b
  | .writeByte _ _ k, _ => k
  | .writeBulk _ _ k, _ => k
  | p, _ => p

/-- The call `r` has been answered with `b` (R53). -/
def callReturned (r : Request) (b : Byte) (s : State) : State :=
  match r with
  | .readByte a => readCompleted a b s.dropReply
  | .writeByte a v => writeCompleted (.writeByte a v) s.dropReply
  | .writeBulk a bs => writeCompleted (.writeBulk a bs) s.dropReply

/-- The record of that call (R50). -/
def returnRecord (r : Request) (b : Byte) : Transaction :=
  match r with
  | .readByte a => ⟨.readByte a, .byte b⟩
  | .writeByte a v => ⟨.writeByte a v, .done⟩
  | .writeBulk a bs => ⟨.writeBulk a bs, .done⟩

theorem run_returns {p : Script} {r : Request} (hp : p.request = some r) {s : State} {b : Byte}
    (h : s.replyAt 0 = .returns b) : p.run s = (p.rest b).run (callReturned r b s) := by
  cases p with
  | finish ws => cases hp
  | raise c => cases hp
  | readByte a k => cases hp; exact run_readByte_returns a k s b h
  | writeByte a v k => cases hp; exact run_writeByte_returns a v k s b h
  | writeBulk a bs k => cases hp; exact run_writeBulk_returns a bs k s b h

/-- A script ends at once or issues a call, and what holds after each return of the call is the induction's
hypothesis. -/
theorem Script.induction_on_calls {P : Script → Prop} (finish : ∀ ws, P (.finish ws)) (raise : ∀ c, P (.raise c))
    (call : ∀ p r, p.request = some r → (∀ b, P (p.rest b)) → P p) (p : Script) : P p := by
  induction p with
  | finish ws => exact finish ws
  | raise c => exact raise c
  | readByte a k ih => exact call _ _ rfl ih
  | writeByte a v k ih => exact call _ _ rfl fun _ => ih
  | writeBulk a bs k ih => exact call _ _ rfl fun _ => ih

@[simp] theorem callReturned_regs (r : Request) (b : Byte) (s : State) : (callReturned r b s).regs = s.regs := by
  cases r <;> rfl
@[simp] theorem callReturned_cfg (r : Request) (b : Byte) (s : State) : (callReturned r b s).cfg = s.cfg := by
  cases r <;> rfl
@[simp] theorem callReturned_trace (r : Request) (b : Byte) (s : State) :
    (callReturned r b s).trace = s.trace ++ [returnRecord r b] := by
  cases r <;> rfl
@[simp] theorem callReturned_replies (r : Request) (b : Byte) (s : State) :
    (callReturned r b s).replies = s.replies.tail := by
  cases r <;> rfl
@[simp] theorem callReturned_replyAt (r : Request) (b : Byte) (s : State) (k : Nat) :
    (callReturned r b s).replyAt k = s.replyAt (k + 1) := by
  cases r <;> exact replyAt_dropReply s k

/-- Where a command stands after a return follows from where it stood. -/
theorem callReturned_flight_congr {s₁ s₂ : State} (h : s₁.flight = s₂.flight) (r : Request) (b : Byte) :
    (callReturned r b s₁).flight = (callReturned r b s₂).flight := by
  cases r <;> simp [callReturned, State.currentFlight, h]

/-- After the return the whole script stands at what is left. -/
theorem after_callReturned {p q : Script} {r : Request} (hq : q.request = some r) {s : State} (b : Byte)
    (h : p.after s.currentFlight.position s.currentFlight.held = some q) :
    p.after (callReturned r b s).currentFlight.position (callReturned r b s).currentFlight.held =
      some (q.rest b) := by
  cases q with
  | finish ws => cases hq
  | raise c => cases hq
  | readByte a k => cases hq; exact after_read p _ _ a k b h
  | writeByte a v k => cases hq; exact after_write p _ _ _ k (.inl ⟨a, v, rfl⟩) h
  | writeBulk a bs k => cases hq; exact after_write p _ _ _ k (.inr ⟨a, bs, rfl⟩) h

end Sys2Proof.Machine
end

section
/-! PROOFS. The transactions of a command depend on the registers, the parameters, where it stands and the replies
(R172). -/

namespace Sys2Proof.Machine

/-- Two states a script cannot tell apart. -/
structure Alike (s₁ s₂ : State) : Prop where
  regs : s₁.regs = s₂.regs
  cfg : s₁.cfg = s₂.cfg
  flight : s₁.flight = s₂.flight
  replies : ∀ k, s₁.replyAt k = s₂.replyAt k

theorem Alike.callReturned {s₁ s₂ : State} (h : Alike s₁ s₂) (r : Request) (b : Byte) :
    Alike (callReturned r b s₁) (callReturned r b s₂) where
  regs := by simpa using h.regs
  cfg := by simpa using h.cfg
  flight := callReturned_flight_congr h.flight r b
  replies k := by simpa using h.replies (k + 1)

/-- From `s₁` and `s₂` the same transactions were recorded, and the same registers and hidden state were reached. -/
def SameTurn (s₁ s₂ t₁ t₂ : State) : Prop :=
  (∃ new, t₁.trace = s₁.trace ++ new ∧ t₂.trace = s₂.trace ++ new) ∧ t₁.regs = t₂.regs ∧ t₁.flight = t₂.flight

theorem SameTurn.of_callReturned {s₁ s₂ t₁ t₂ : State} {r : Request} {b : Byte}
    (h : SameTurn (callReturned r b s₁) (callReturned r b s₂) t₁ t₂) : SameTurn s₁ s₂ t₁ t₂ := by
  obtain ⟨⟨new, h₁, h₂⟩, hsame⟩ := h
  exact ⟨⟨returnRecord r b :: new, by simpa using h₁, by simpa using h₂⟩, hsame⟩

theorem writeRegs_regs_congr {s₁ s₂ : State} (hregs : s₁.regs = s₂.regs) (hcfg : s₁.cfg = s₂.cfg)
    (ws : List (Reg × Int)) : (s₁.writeRegs ws).regs = (s₂.writeRegs ws).regs :=
  regs_ext _ _ fun n => writeRegs_x_congr (congrArg Params.width hcfg) (.inr (congrArg (Regs.get · n) hregs))

theorem Alike.run {s₁ s₂ : State} (h : Alike s₁ s₂) (p : Script) : SameTurn s₁ s₂ (p.run s₁) (p.run s₂) := by
  induction p using Script.induction_on_calls generalizing s₁ s₂ with
  | finish ws => exact ⟨⟨[], by simp, by simp⟩, writeRegs_regs_congr h.regs h.cfg ws, rfl⟩
  | raise c => exact ⟨⟨[], by simp, by simp⟩, h.regs, rfl⟩
  | call p r hp ih =>
    have hreply₂ := h.replies 0
    cases hreply₁ : s₁.replyAt 0 with
    | returns b =>
      rw [run_returns hp hreply₁, run_returns hp (hreply₂.symm.trans hreply₁)]
      exact (ih b (h.callReturned r b)).of_callReturned
    | fails =>
      rw [run_fails p r s₁ hp hreply₁, run_fails p r s₂ hp (hreply₂.symm.trans hreply₁)]
      exact ⟨⟨[⟨r, .failed⟩], rfl, rfl⟩, h.regs, rfl⟩
    | silent =>
      rw [run_silent p r s₁ hp hreply₁, run_silent p r s₂ hp (hreply₂.symm.trans hreply₁)]
      exact ⟨⟨[], by simp, by simp⟩, h.regs, by simp [State.currentFlight, h.flight]⟩

/-- Settles O39: the two states have one script, taken up at one place, and each of its calls is answered alike. -/
theorem transactionsDependOnRegistersAndReplies : Obligations.TransactionsDependOnRegistersAndReplies := by
  intro i s₁ s₂ t₁ t₂ hregs hcfg hflight hreplies hexec₁ hexec₂
  rw [exec_eq] at hexec₁ hexec₂
  cases hexec₁
  cases hexec₂
  rw [script_congr i s₁ s₂ hregs hcfg, State.currentFlight, hflight]
  exact Alike.run ⟨hregs, hcfg, hflight, hreplies⟩ _

end Sys2Proof.Machine
end

section
/-! PROOFS. A silent reply only delays a command: its next turn takes the script up at the outstanding call, in a state
that answers it as if the silence had not been (R38, R47, log entries 4 and 13). -/

namespace Sys2Proof.Machine

/-- A call that is outstanding is issued as one that is not. -/
theorem run_awaitPort {p : Script} {r : Request} (hp : p.request = some r) (s : State) :
    p.run (awaitPort r s) = p.run s := by
  cases hreply : s.replyAt 0 with
  | returns b =>
    rw [run_returns hp hreply, run_returns hp (s := awaitPort r s) hreply]
    cases r <;> rfl
  | fails =>
    rw [run_fails p r s hp hreply, run_fails p r (awaitPort r s) hp hreply]
    rfl
  | silent =>
    rw [run_silent p r s hp hreply, run_silent p r (awaitPort r s) hp hreply]
    rfl

/-- The same state with the answers and one draw more, as if a silent reply had been drawn before them. -/
def State.answeredBy (s : State) (replies : List Reply) : State := { s with replies := replies, draws := s.draws + 1 }

theorem replyAt_zero_of_cons {s : State} {r : Reply} {rest : List Reply} (h : s.replies = r :: rest) :
    s.replyAt 0 = r := by
  simp [State.replyAt, h]

theorem callReturned_answeredBy (r : Request) (b : Byte) (s : State) (x : Reply) (rest : List Reply) :
    callReturned r b (s.answeredBy (x :: rest)) = (callReturned r b s).answeredBy rest := by
  cases r <;> rfl

/-- The turn after the silence: the script `p`, standing at `q`, had its calls answered by `pre` and then waited. -/
theorem run_resume_after_silence {p q : Script} {s : State} {pre post : List Reply}
    (hat : p.after s.currentFlight.position s.currentFlight.held = some q)
    (hpre : ∀ r ∈ pre, ∃ b, r = .returns b) (hreplies : s.replies = pre ++ .silent :: post)
    (hbusy : (q.run s).busy = true) :
    (p.resume (q.run s).currentFlight).run (q.run s) = q.run (s.answeredBy (pre ++ post)) := by
  induction q using Script.induction_on_calls generalizing s pre with
  | finish ws => cases hbusy
  | raise c => cases hbusy
  | call q r hq ih =>
    cases pre with
    | nil =>
      have hdropped : s.dropReply = s.answeredBy post := by rw [State.dropReply, hreplies]; rfl
      rw [run_silent q r s hq (replyAt_zero_of_cons hreplies), hdropped,
        resume_of_after (f := (awaitPort r (s.answeredBy post)).currentFlight) hat]
      exact run_awaitPort hq _
    | cons x pre =>
      obtain ⟨⟨b, rfl⟩, hrest⟩ := List.forall_mem_cons.mp hpre
      rw [run_returns hq (replyAt_zero_of_cons hreplies)] at hbusy ⊢
      rw [List.cons_append, run_returns hq (s := s.answeredBy _) rfl, callReturned_answeredBy]
      exact ih b (after_callReturned hq b hat) hrest (by rw [callReturned_replies, hreplies]; rfl) hbusy

/-- Settles O41: the first turn stands still at the silent reply, and the registers its script is made of have not
changed. -/
theorem waitingCommandGoesOnWhereItStood : Obligations.WaitingCommandGoesOnWhereItStood := by
  intro i s t pre post hfresh hpre hreplies hexec hbusy
  rw [exec_starting i s hfresh] at hexec
  cases hexec
  obtain ⟨-, hregs⟩ := run_keeps_operands (script i s) hbusy
  change _ = exec i (s.answeredBy (pre ++ post))
  rw [exec_eq, script_congr i _ s hregs (run_untouched _ s).cfg, exec_starting i (s.answeredBy _) hfresh,
    script_congr i (s.answeredBy _) s rfl rfl]
  refine congrArg Host.Outcome.next (run_resume_after_silence ?_ hpre hreplies hbusy)
  rw [currentFlight_of_some s _ hfresh]
  exact after_zero _

end Sys2Proof.Machine
end
